-- ==== Sys2Proof/Word.lean ====
section
/-! DEFINITION. The two word sizes of the hardware (00_scope.md R8: u8 and u16). -/

namespace Sys2Proof

/-- A u8: a value in [0,255] (R8). -/
abbrev Byte := BitVec 8

/-- A u16, the document's "short": a value in [0,65535] (R8, R12). -/
abbrev Short := BitVec 16

end Sys2Proof
end

