-- ==== Sys2Proof/Config.lean ====
section
/-! DEFINITION. What an implementation or its host fixes (00_scope.md R7): defaults of the parameters, and the behaviour of
host-supplied devices, which the spec leaves open (45_device_io.md R88, decision D22). -/

namespace Sys2Proof

/-- The private state of a host-supplied device: a finite byte string (log 8). -/
abbrev HostState := List Byte

/-- The fixed program load address 0x0100 (R6, R38, R125). -/
def Config.loadAddress : Short := 0x0100

/-- The default of the parameter ENTRY_PC (R7, R127, decision D16). -/
def Config.entryPc : Short := 0x0100

/-- The longest program image the loader takes (R125, decision D24). -/
def Config.maxImage : Nat := 65280

/-- The default of the parameter SUB8_ADDS (R7, R98, decision D3). -/
def Config.sub8Adds : Bool := false

/-- The two stack pointers, as a device called in a step finds them: any device may read them (R88). -/
structure StackPointers where
  ws : Byte
  rs : Byte
deriving DecidableEq, Repr

/-- HOST_DEVICE `read_byte(port)`: the answer and the device's new state (R88, D22).  No body: nothing in Lean can evaluate it.
The arguments say which device it is, its state, the stack pointers at the call, and the port. -/
opaque Config.hostReadByte : Nat → HostState → StackPointers → BitVec 4 → Byte × HostState

/-- HOST_DEVICE `read_short(port)`: the answer and the device's new state (R88, D22).  No body. -/
opaque Config.hostReadShort : Nat → HostState → StackPointers → BitVec 4 → Short × HostState

/-- HOST_DEVICE `write_byte(port, v)`: the device's new state (R88, D22).  No body. -/
opaque Config.hostWriteByte : Nat → HostState → StackPointers → BitVec 4 → Byte → HostState

/-- HOST_DEVICE `write_short(port, v)`: the device's new state (R88, D22).  No body. -/
opaque Config.hostWriteShort : Nat → HostState → StackPointers → BitVec 4 → Short → HostState

end Sys2Proof
end

