-- ==== Sys2Proof/Syntax.lean ====
section
/-! DEFINITION. The instruction set: one constructor of `Instr` per row of spec/opcode_table.json (256), the flag bits
(30_encoding.md R44) and the 31 base operations (R48).  Spelling of the names: R49. -/

namespace Sys2Proof

/-- The operand width `w` that the short flag selects (R44): 1 or 2 bytes. -/
inductive Width where
  | byte
  | short
deriving DecidableEq, Repr

/-- `w` as a number of bytes (R8). -/
def Width.bytes : Width → Nat
  | .byte => 1
  | .short => 2

/-- The three flags of a non-immediate instruction byte (R44): keep (bit 7), return (bit 6), short (bit 5, as a width). -/
structure Mode where
  keep : Bool
  ret : Bool
  width : Width
deriving DecidableEq, Repr

/-- The 31 base operations, numbers 0x01..0x1F in this order (R48). -/
inductive Op where
  | inc | pop | nip | swp | rot | dup | ovr | equ
  | neq | gth | lth | jmp | jcn | jsr | sth | ldz
  | stz | ldr | str | lda | sta | dei | deo | add
  | sub | mul | div | and | or | xor | sft
deriving DecidableEq, Repr

/-- One constructor per row of the opcode table, in the table's order.  The immediate opcodes that read inline bytes carry
them (R45, R51); every other instruction takes its operands from a stack. -/
inductive Instr where
  | brk
  | inc
  | pop
  | nip
  | swp
  | rot
  | dup
  | ovr
  | equ
  | neq
  | gth
  | lth
  | jmp
  | jcn
  | jsr
  | sth
  | ldz
  | stz
  | ldr
  | str
  | lda
  | sta
  | dei
  | deo
  | add
  | sub
  | mul
  | div
  | and
  | or
  | xor
  | sft
  | jci (d : Short)
  | inc2
  | pop2
  | nip2
  | swp2
  | rot2
  | dup2
  | ovr2
  | equ2
  | neq2
  | gth2
  | lth2
  | jmp2
  | jcn2
  | jsr2
  | sth2
  | ldz2
  | stz2
  | ldr2
  | str2
  | lda2
  | sta2
  | dei2
  | deo2
  | add2
  | sub2
  | mul2
  | div2
  | and2
  | or2
  | xor2
  | sft2
  | jmi (d : Short)
  | incr
  | popr
  | nipr
  | swpr
  | rotr
  | dupr
  | ovrr
  | equr
  | neqr
  | gthr
  | lthr
  | jmpr
  | jcnr
  | jsrr
  | sthr
  | ldzr
  | stzr
  | ldrr
  | strr
  | ldar
  | star
  | deir
  | deor
  | addr
  | subr
  | mulr
  | divr
  | andr
  | orr
  | xorr
  | sftr
  | jsi (d : Short)
  | inc2r
  | pop2r
  | nip2r
  | swp2r
  | rot2r
  | dup2r
  | ovr2r
  | equ2r
  | neq2r
  | gth2r
  | lth2r
  | jmp2r
  | jcn2r
  | jsr2r
  | sth2r
  | ldz2r
  | stz2r
  | ldr2r
  | str2r
  | lda2r
  | sta2r
  | dei2r
  | deo2r
  | add2r
  | sub2r
  | mul2r
  | div2r
  | and2r
  | or2r
  | xor2r
  | sft2r
  | lit (v : Byte)
  | inck
  | popk
  | nipk
  | swpk
  | rotk
  | dupk
  | ovrk
  | equk
  | neqk
  | gthk
  | lthk
  | jmpk
  | jcnk
  | jsrk
  | sthk
  | ldzk
  | stzk
  | ldrk
  | strk
  | ldak
  | stak
  | deik
  | deok
  | addk
  | subk
  | mulk
  | divk
  | andk
  | ork
  | xork
  | sftk
  | lit2 (v : Short)
  | inc2k
  | pop2k
  | nip2k
  | swp2k
  | rot2k
  | dup2k
  | ovr2k
  | equ2k
  | neq2k
  | gth2k
  | lth2k
  | jmp2k
  | jcn2k
  | jsr2k
  | sth2k
  | ldz2k
  | stz2k
  | ldr2k
  | str2k
  | lda2k
  | sta2k
  | dei2k
  | deo2k
  | add2k
  | sub2k
  | mul2k
  | div2k
  | and2k
  | or2k
  | xor2k
  | sft2k
  | litr (v : Byte)
  | inckr
  | popkr
  | nipkr
  | swpkr
  | rotkr
  | dupkr
  | ovrkr
  | equkr
  | neqkr
  | gthkr
  | lthkr
  | jmpkr
  | jcnkr
  | jsrkr
  | sthkr
  | ldzkr
  | stzkr
  | ldrkr
  | strkr
  | ldakr
  | stakr
  | deikr
  | deokr
  | addkr
  | subkr
  | mulkr
  | divkr
  | andkr
  | orkr
  | xorkr
  | sftkr
  | lit2r (v : Short)
  | inc2kr
  | pop2kr
  | nip2kr
  | swp2kr
  | rot2kr
  | dup2kr
  | ovr2kr
  | equ2kr
  | neq2kr
  | gth2kr
  | lth2kr
  | jmp2kr
  | jcn2kr
  | jsr2kr
  | sth2kr
  | ldz2kr
  | stz2kr
  | ldr2kr
  | str2kr
  | lda2kr
  | sta2kr
  | dei2kr
  | deo2kr
  | add2kr
  | sub2kr
  | mul2kr
  | div2kr
  | and2kr
  | or2kr
  | xor2kr
  | sft2kr
deriving DecidableEq, Repr

/-- Why a byte sequence is not an instruction.  No byte VALUE is rejected (R53): only a sequence that ends too early. -/
inductive DecodeError where
  /-- No byte at all. -/
  | empty
  /-- The inline operand of this immediate opcode is cut off (R51). -/
  | truncated (opcode : Byte)
  /-- The internal-invariant violation of R112: reached by no byte (R53). -/
  | unhandled (opcode : Byte)
deriving DecidableEq, Repr

end Sys2Proof
end

