-- ==== Sys2Proof/WellFormed.lean ====
section
/-! DEFINITION. Which byte sequences are one whole instruction, and which program images the loader takes.

Every term of `Instr` is a well-formed instruction: the only operands are the inline byte of LIT and LITr and the inline short of
JCI, JMI, JSI, LIT2 and LIT2r, and their types have exactly the encoding's width (30_encoding.md R51), so there is no check on
`Instr` itself to fail (log 21). -/

namespace Sys2Proof

/-- The instruction length that the first byte alone tells (R52). -/
def wordLength (b : Byte) : Nat :=
  if b = 0x20 ∨ b = 0x40 ∨ b = 0x60 ∨ b = 0xA0 ∨ b = 0xE0 then 3
  else if b = 0x80 ∨ b = 0xC0 then 2
  else 1

/-- The bytes are one whole instruction, neither cut short nor followed by anything (R52). -/
def wordsWf : List Byte → Bool
  | [] => false
  | b :: rest => rest.length + 1 == wordLength b

/-- The image fits between the load address and the top of memory (R125, decision D24). -/
def imageWf (image : List Byte) : Bool := decide (image.length ≤ Config.maxImage)

end Sys2Proof
end

