-- ==== Sys2Proof/Decode.lean ====
section
/-! DEFINITION. Byte order and bit fields (00_scope.md R8), the decoder (30_encoding.md R44-R52) and the encoder. -/

namespace Sys2Proof

/-- `hi ++ lo`: the short whose most significant byte is `hi` (R8). -/
def shortOf (hi lo : Byte) : Short := hi ++ lo

/-- `v[15:8]` (R8). -/
def hiByte (v : Short) : Byte := v.extractLsb' 8 8

/-- `v[7:0]` (R8). -/
def loByte (v : Short) : Byte := v.extractLsb' 0 8

/-- `zext_16` (R8). -/
def zext16 (b : Byte) : Short := b.setWidth 16

/-- `sext_8`, as a 16-bit two's complement value (R8). -/
def sext8 (b : Byte) : Short := b.signExtend 16

/-- The flags k, r, s of an instruction byte: bits 7, 6 and 5 (R44). -/
def modeOf (b : Byte) : Mode :=
  { keep := b.getLsbD 7, ret := b.getLsbD 6, width := if b.getLsbD 5 then .short else .byte }

/-- The base operation numbered by `ins[4:0]` (R48); none for 0, the immediate opcodes (R45). -/
def opOf (b : Byte) : Option Op :=
  match (b.extractLsb' 0 5).toNat with
  | 0x01 => some .inc
  | 0x02 => some .pop
  | 0x03 => some .nip
  | 0x04 => some .swp
  | 0x05 => some .rot
  | 0x06 => some .dup
  | 0x07 => some .ovr
  | 0x08 => some .equ
  | 0x09 => some .neq
  | 0x0A => some .gth
  | 0x0B => some .lth
  | 0x0C => some .jmp
  | 0x0D => some .jcn
  | 0x0E => some .jsr
  | 0x0F => some .sth
  | 0x10 => some .ldz
  | 0x11 => some .stz
  | 0x12 => some .ldr
  | 0x13 => some .str
  | 0x14 => some .lda
  | 0x15 => some .sta
  | 0x16 => some .dei
  | 0x17 => some .deo
  | 0x18 => some .add
  | 0x19 => some .sub
  | 0x1A => some .mul
  | 0x1B => some .div
  | 0x1C => some .and
  | 0x1D => some .or
  | 0x1E => some .xor
  | 0x1F => some .sft
  | _ => none

/-- The instruction, among the eight flag combinations of one operation, that the flags name (R46, R49).  The arguments stand in
the order of the byte: plain, `2`, `r`, `2r`, `k`, `2k`, `kr`, `2kr`. -/
def Mode.pick (m : Mode) (i i2 ir i2r ik i2k ikr i2kr : Instr) : Instr :=
  match m.keep, m.ret, m.width with
  | false, false, .byte => i
  | false, false, .short => i2
  | false, true, .byte => ir
  | false, true, .short => i2r
  | true, false, .byte => ik
  | true, false, .short => i2k
  | true, true, .byte => ikr
  | true, true, .short => i2kr

/-- The instruction of a base operation under given flags (R46: dispatch on the low 6 bits, executed with the flags k and r). -/
def Instr.stack (op : Op) (m : Mode) : Instr :=
  match op with
  | .inc => m.pick .inc .inc2 .incr .inc2r .inck .inc2k .inckr .inc2kr
  | .pop => m.pick .pop .pop2 .popr .pop2r .popk .pop2k .popkr .pop2kr
  | .nip => m.pick .nip .nip2 .nipr .nip2r .nipk .nip2k .nipkr .nip2kr
  | .swp => m.pick .swp .swp2 .swpr .swp2r .swpk .swp2k .swpkr .swp2kr
  | .rot => m.pick .rot .rot2 .rotr .rot2r .rotk .rot2k .rotkr .rot2kr
  | .dup => m.pick .dup .dup2 .dupr .dup2r .dupk .dup2k .dupkr .dup2kr
  | .ovr => m.pick .ovr .ovr2 .ovrr .ovr2r .ovrk .ovr2k .ovrkr .ovr2kr
  | .equ => m.pick .equ .equ2 .equr .equ2r .equk .equ2k .equkr .equ2kr
  | .neq => m.pick .neq .neq2 .neqr .neq2r .neqk .neq2k .neqkr .neq2kr
  | .gth => m.pick .gth .gth2 .gthr .gth2r .gthk .gth2k .gthkr .gth2kr
  | .lth => m.pick .lth .lth2 .lthr .lth2r .lthk .lth2k .lthkr .lth2kr
  | .jmp => m.pick .jmp .jmp2 .jmpr .jmp2r .jmpk .jmp2k .jmpkr .jmp2kr
  | .jcn => m.pick .jcn .jcn2 .jcnr .jcn2r .jcnk .jcn2k .jcnkr .jcn2kr
  | .jsr => m.pick .jsr .jsr2 .jsrr .jsr2r .jsrk .jsr2k .jsrkr .jsr2kr
  | .sth => m.pick .sth .sth2 .sthr .sth2r .sthk .sth2k .sthkr .sth2kr
  | .ldz => m.pick .ldz .ldz2 .ldzr .ldz2r .ldzk .ldz2k .ldzkr .ldz2kr
  | .stz => m.pick .stz .stz2 .stzr .stz2r .stzk .stz2k .stzkr .stz2kr
  | .ldr => m.pick .ldr .ldr2 .ldrr .ldr2r .ldrk .ldr2k .ldrkr .ldr2kr
  | .str => m.pick .str .str2 .strr .str2r .strk .str2k .strkr .str2kr
  | .lda => m.pick .lda .lda2 .ldar .lda2r .ldak .lda2k .ldakr .lda2kr
  | .sta => m.pick .sta .sta2 .star .sta2r .stak .sta2k .stakr .sta2kr
  | .dei => m.pick .dei .dei2 .deir .dei2r .deik .dei2k .deikr .dei2kr
  | .deo => m.pick .deo .deo2 .deor .deo2r .deok .deo2k .deokr .deo2kr
  | .add => m.pick .add .add2 .addr .add2r .addk .add2k .addkr .add2kr
  | .sub => m.pick .sub .sub2 .subr .sub2r .subk .sub2k .subkr .sub2kr
  | .mul => m.pick .mul .mul2 .mulr .mul2r .mulk .mul2k .mulkr .mul2kr
  | .div => m.pick .div .div2 .divr .div2r .divk .div2k .divkr .div2kr
  | .and => m.pick .and .and2 .andr .and2r .andk .and2k .andkr .and2kr
  | .or => m.pick .or .or2 .orr .or2r .ork .or2k .orkr .or2kr
  | .xor => m.pick .xor .xor2 .xorr .xor2r .xork .xor2k .xorkr .xor2kr
  | .sft => m.pick .sft .sft2 .sftr .sft2r .sftk .sft2k .sftkr .sft2kr

/-- An immediate opcode whose operand is the next byte (R51). -/
def decodeInlineByte (b : Byte) (mk : Byte → Instr) : List Byte → Except DecodeError (Instr × List Byte)
  | v :: rest => .ok (mk v, rest)
  | [] => .error (.truncated b)

/-- An immediate opcode whose operand is the next two bytes, big-endian (R51). -/
def decodeInlineShort (b : Byte) (mk : Short → Instr) : List Byte → Except DecodeError (Instr × List Byte)
  | hi :: lo :: rest => .ok (mk (shortOf hi lo), rest)
  | _ => .error (.truncated b)

/-- The eight immediate opcodes, dispatched on the whole byte (R45, R46). -/
def decodeImmediate (b : Byte) (rest : List Byte) : Except DecodeError (Instr × List Byte) :=
  match b.toNat with
  | 0x00 => .ok (.brk, rest)
  | 0x20 => decodeInlineShort b .jci rest
  | 0x40 => decodeInlineShort b .jmi rest
  | 0x60 => decodeInlineShort b .jsi rest
  | 0x80 => decodeInlineByte b .lit rest
  | 0xA0 => decodeInlineShort b .lit2 rest
  | 0xC0 => decodeInlineByte b .litr rest
  | 0xE0 => decodeInlineShort b .lit2r rest
  | _ => .error (.unhandled b)

/-- The decoder: the instruction at the front of the bytes and what follows it (R44-R48, R51). -/
def decode : List Byte → Except DecodeError (Instr × List Byte)
  | [] => .error .empty
  | b :: rest =>
    match opOf b with
    | some op => .ok (.stack op (modeOf b), rest)
    | none => decodeImmediate b rest

/-- The three bytes of a table word: bit 0 of `w` is bit 0 of the first byte, the second byte is bits 15..8, and every bit at or above
`nbits` is 0. -/
def tableWordBytes (nbits w : Nat) : List Byte :=
  let v := w % 2 ^ nbits
  [BitVec.ofNat 8 v, BitVec.ofNat 8 (v / 256), BitVec.ofNat 8 (v / 65536)]

/-- The instruction the decoder reads from a word numbered as spec/opcode_table.json numbers it. -/
def decodeTableWord (nbits w : Nat) : Option Instr :=
  match decode (tableWordBytes nbits w) with
  | .ok (i, _) => some i
  | .error _ => none

/-- The bytes of an instruction: its opcode byte and its inline operand, big-endian (R45, R48, R51). -/
def encode : Instr → List Byte
  | .brk => [0x00]
  | .inc => [0x01]
  | .pop => [0x02]
  | .nip => [0x03]
  | .swp => [0x04]
  | .rot => [0x05]
  | .dup => [0x06]
  | .ovr => [0x07]
  | .equ => [0x08]
  | .neq => [0x09]
  | .gth => [0x0A]
  | .lth => [0x0B]
  | .jmp => [0x0C]
  | .jcn => [0x0D]
  | .jsr => [0x0E]
  | .sth => [0x0F]
  | .ldz => [0x10]
  | .stz => [0x11]
  | .ldr => [0x12]
  | .str => [0x13]
  | .lda => [0x14]
  | .sta => [0x15]
  | .dei => [0x16]
  | .deo => [0x17]
  | .add => [0x18]
  | .sub => [0x19]
  | .mul => [0x1A]
  | .div => [0x1B]
  | .and => [0x1C]
  | .or => [0x1D]
  | .xor => [0x1E]
  | .sft => [0x1F]
  | .jci d => [0x20, hiByte d, loByte d]
  | .inc2 => [0x21]
  | .pop2 => [0x22]
  | .nip2 => [0x23]
  | .swp2 => [0x24]
  | .rot2 => [0x25]
  | .dup2 => [0x26]
  | .ovr2 => [0x27]
  | .equ2 => [0x28]
  | .neq2 => [0x29]
  | .gth2 => [0x2A]
  | .lth2 => [0x2B]
  | .jmp2 => [0x2C]
  | .jcn2 => [0x2D]
  | .jsr2 => [0x2E]
  | .sth2 => [0x2F]
  | .ldz2 => [0x30]
  | .stz2 => [0x31]
  | .ldr2 => [0x32]
  | .str2 => [0x33]
  | .lda2 => [0x34]
  | .sta2 => [0x35]
  | .dei2 => [0x36]
  | .deo2 => [0x37]
  | .add2 => [0x38]
  | .sub2 => [0x39]
  | .mul2 => [0x3A]
  | .div2 => [0x3B]
  | .and2 => [0x3C]
  | .or2 => [0x3D]
  | .xor2 => [0x3E]
  | .sft2 => [0x3F]
  | .jmi d => [0x40, hiByte d, loByte d]
  | .incr => [0x41]
  | .popr => [0x42]
  | .nipr => [0x43]
  | .swpr => [0x44]
  | .rotr => [0x45]
  | .dupr => [0x46]
  | .ovrr => [0x47]
  | .equr => [0x48]
  | .neqr => [0x49]
  | .gthr => [0x4A]
  | .lthr => [0x4B]
  | .jmpr => [0x4C]
  | .jcnr => [0x4D]
  | .jsrr => [0x4E]
  | .sthr => [0x4F]
  | .ldzr => [0x50]
  | .stzr => [0x51]
  | .ldrr => [0x52]
  | .strr => [0x53]
  | .ldar => [0x54]
  | .star => [0x55]
  | .deir => [0x56]
  | .deor => [0x57]
  | .addr => [0x58]
  | .subr => [0x59]
  | .mulr => [0x5A]
  | .divr => [0x5B]
  | .andr => [0x5C]
  | .orr => [0x5D]
  | .xorr => [0x5E]
  | .sftr => [0x5F]
  | .jsi d => [0x60, hiByte d, loByte d]
  | .inc2r => [0x61]
  | .pop2r => [0x62]
  | .nip2r => [0x63]
  | .swp2r => [0x64]
  | .rot2r => [0x65]
  | .dup2r => [0x66]
  | .ovr2r => [0x67]
  | .equ2r => [0x68]
  | .neq2r => [0x69]
  | .gth2r => [0x6A]
  | .lth2r => [0x6B]
  | .jmp2r => [0x6C]
  | .jcn2r => [0x6D]
  | .jsr2r => [0x6E]
  | .sth2r => [0x6F]
  | .ldz2r => [0x70]
  | .stz2r => [0x71]
  | .ldr2r => [0x72]
  | .str2r => [0x73]
  | .lda2r => [0x74]
  | .sta2r => [0x75]
  | .dei2r => [0x76]
  | .deo2r => [0x77]
  | .add2r => [0x78]
  | .sub2r => [0x79]
  | .mul2r => [0x7A]
  | .div2r => [0x7B]
  | .and2r => [0x7C]
  | .or2r => [0x7D]
  | .xor2r => [0x7E]
  | .sft2r => [0x7F]
  | .lit v => [0x80, v]
  | .inck => [0x81]
  | .popk => [0x82]
  | .nipk => [0x83]
  | .swpk => [0x84]
  | .rotk => [0x85]
  | .dupk => [0x86]
  | .ovrk => [0x87]
  | .equk => [0x88]
  | .neqk => [0x89]
  | .gthk => [0x8A]
  | .lthk => [0x8B]
  | .jmpk => [0x8C]
  | .jcnk => [0x8D]
  | .jsrk => [0x8E]
  | .sthk => [0x8F]
  | .ldzk => [0x90]
  | .stzk => [0x91]
  | .ldrk => [0x92]
  | .strk => [0x93]
  | .ldak => [0x94]
  | .stak => [0x95]
  | .deik => [0x96]
  | .deok => [0x97]
  | .addk => [0x98]
  | .subk => [0x99]
  | .mulk => [0x9A]
  | .divk => [0x9B]
  | .andk => [0x9C]
  | .ork => [0x9D]
  | .xork => [0x9E]
  | .sftk => [0x9F]
  | .lit2 v => [0xA0, hiByte v, loByte v]
  | .inc2k => [0xA1]
  | .pop2k => [0xA2]
  | .nip2k => [0xA3]
  | .swp2k => [0xA4]
  | .rot2k => [0xA5]
  | .dup2k => [0xA6]
  | .ovr2k => [0xA7]
  | .equ2k => [0xA8]
  | .neq2k => [0xA9]
  | .gth2k => [0xAA]
  | .lth2k => [0xAB]
  | .jmp2k => [0xAC]
  | .jcn2k => [0xAD]
  | .jsr2k => [0xAE]
  | .sth2k => [0xAF]
  | .ldz2k => [0xB0]
  | .stz2k => [0xB1]
  | .ldr2k => [0xB2]
  | .str2k => [0xB3]
  | .lda2k => [0xB4]
  | .sta2k => [0xB5]
  | .dei2k => [0xB6]
  | .deo2k => [0xB7]
  | .add2k => [0xB8]
  | .sub2k => [0xB9]
  | .mul2k => [0xBA]
  | .div2k => [0xBB]
  | .and2k => [0xBC]
  | .or2k => [0xBD]
  | .xor2k => [0xBE]
  | .sft2k => [0xBF]
  | .litr v => [0xC0, v]
  | .inckr => [0xC1]
  | .popkr => [0xC2]
  | .nipkr => [0xC3]
  | .swpkr => [0xC4]
  | .rotkr => [0xC5]
  | .dupkr => [0xC6]
  | .ovrkr => [0xC7]
  | .equkr => [0xC8]
  | .neqkr => [0xC9]
  | .gthkr => [0xCA]
  | .lthkr => [0xCB]
  | .jmpkr => [0xCC]
  | .jcnkr => [0xCD]
  | .jsrkr => [0xCE]
  | .sthkr => [0xCF]
  | .ldzkr => [0xD0]
  | .stzkr => [0xD1]
  | .ldrkr => [0xD2]
  | .strkr => [0xD3]
  | .ldakr => [0xD4]
  | .stakr => [0xD5]
  | .deikr => [0xD6]
  | .deokr => [0xD7]
  | .addkr => [0xD8]
  | .subkr => [0xD9]
  | .mulkr => [0xDA]
  | .divkr => [0xDB]
  | .andkr => [0xDC]
  | .orkr => [0xDD]
  | .xorkr => [0xDE]
  | .sftkr => [0xDF]
  | .lit2r v => [0xE0, hiByte v, loByte v]
  | .inc2kr => [0xE1]
  | .pop2kr => [0xE2]
  | .nip2kr => [0xE3]
  | .swp2kr => [0xE4]
  | .rot2kr => [0xE5]
  | .dup2kr => [0xE6]
  | .ovr2kr => [0xE7]
  | .equ2kr => [0xE8]
  | .neq2kr => [0xE9]
  | .gth2kr => [0xEA]
  | .lth2kr => [0xEB]
  | .jmp2kr => [0xEC]
  | .jcn2kr => [0xED]
  | .jsr2kr => [0xEE]
  | .sth2kr => [0xEF]
  | .ldz2kr => [0xF0]
  | .stz2kr => [0xF1]
  | .ldr2kr => [0xF2]
  | .str2kr => [0xF3]
  | .lda2kr => [0xF4]
  | .sta2kr => [0xF5]
  | .dei2kr => [0xF6]
  | .deo2kr => [0xF7]
  | .add2kr => [0xF8]
  | .sub2kr => [0xF9]
  | .mul2kr => [0xFA]
  | .div2kr => [0xFB]
  | .and2kr => [0xFC]
  | .or2kr => [0xFD]
  | .xor2kr => [0xFE]
  | .sft2kr => [0xFF]

end Sys2Proof
end

