-- ==== Sys2Proof/Machine/State.lean ====
section
/-! DEFINITION. The architectural state (10_state.md R13), why a step can stop, and the state after creation (R26). -/

namespace Sys2Proof.Machine

/-- The three faults of the block (60_exceptions.md R105).  They are outcomes recorded in `State.status`: raising one is a NEXT
state (R106, R111), see log 1. -/
inductive FaultKind where
  /-- More operand bytes required than the stack holds. -/
  | underflow
  /-- The new pointer would exceed 255. -/
  | overflow
  /-- The divisor is 0. -/
  | zeroDiv
deriving DecidableEq, Repr

/-- The outcome of the most recent step (R20, R108). -/
inductive Status where
  /-- `Continue`: the pseudocode completed. -/
  | cont
  /-- `Halted`: BRK executed (R107). -/
  | halted
  /-- `Fault(kind)` (R106). -/
  | fault (kind : FaultKind)
deriving DecidableEq, Repr

/-- Why the machine stops for good.  There is no such reason: a fault of the block leaves a state from which the next step continues
(R106, R111), so it is a next state whose `status` says so, and no access faults on its address (R29, R39).  Safe: nothing raises
it. -/
inductive Fault where
deriving DecidableEq, Repr

/-- Why a step has no meaning. -/
inductive Refusal where
  /-- Raised by an arm of `exec` whose instruction has no meaning yet.  Safe: the model stops where the hardware goes on. -/
  | notModelled (mnemonic : String)
  /-- Raised by `step` where the bytes at the pc are no instruction: the internal-invariant violation of R112, which no byte reaches
  (R53).  Safe: the model stops. -/
  | undecodable (why : DecodeError)
deriving DecidableEq, Repr

/-- Which of the two stacks (R16). -/
inductive StackSel where
  | ws
  | rs
deriving DecidableEq, Repr

/-- A stack: a buffer of 256 bytes and an 8-bit pointer, the number of bytes held (R16). -/
structure Stack where
  dat : Vector Byte 256
  sp : Byte
deriving DecidableEq, Repr

/-- The System device's own storage (60_exceptions.md R115): ports 0x0..0x3 and ports 0x6..0xF.  Ports 4 and 5 have none: they are
views of the stack pointers (R22, R25). -/
structure SystemPorts where
  /-- Ports 0x0, 0x1 (unnamed) and 0x2, 0x3 (expansion, high byte first). -/
  low : Vector Byte 4
  /-- Ports 0x6..0xF: metadata, red, green, blue (high byte first), debug, state. -/
  high : Vector Byte 10
deriving DecidableEq, Repr

/-- A device installed in a slot (R21, R22, 45_device_io.md R88). -/
inductive Device where
  /-- The System device (R115). -/
  | system (ports : SystemPorts)
  /-- The Console device: sixteen one-byte ports (R118). -/
  | console (ports : Vector Byte 16)
  /-- A host-supplied device: which one, and its private state (R7, R88, D22). -/
  | host (id : Nat) (st : HostState)
deriving DecidableEq, Repr

/-- The direction of a device call (45_device_io.md R94): `in` for DEI, `out` for DEO. -/
inductive Dir where
  | input
  | output
deriving DecidableEq, Repr

/-- One entry of the bus record (R94): `(dir, slot, port, w, value)`. -/
structure BusEvent where
  dir : Dir
  slot : BitVec 4
  port : BitVec 4
  width : Width
  value : Short
deriving DecidableEq, Repr

/-- Memory: the bytes that differ from what an unlisted address reads as, by strictly rising address (R13, R28). -/
abbrev Memory := List Host.Cell

/-- The whole state of one CPU instance (R13), the private state of its devices, the bus record (R94) and the parameter SUB8_ADDS
(R7, log 2).  Plain data. -/
structure State where
  mem : Memory
  pc : Short
  ws : Stack
  rs : Stack
  status : Status
  dev : Vector (Option Device) 16
  /-- Oldest first. -/
  bus : List BusEvent
  /-- The parameter SUB8_ADDS (R7, R98): read by byte SUB, written by nothing. -/
  sub8Adds : Bool
deriving DecidableEq, Repr

/-- An empty stack: pointer 0, every byte 0x00 (R26, decision D15). -/
def Stack.empty : Stack := { dat := Vector.replicate 256 0, sp := 0 }

/-- The System device at creation: every storage port 0x00 (R26, decision D21). -/
def SystemPorts.fresh : SystemPorts := { low := Vector.replicate 4 0, high := Vector.replicate 10 0 }

/-- The Console device at creation: every port 0x00 (R26, decision D21). -/
def Device.freshConsole : Device := .console (Vector.replicate 16 0)

/-- The default device table: System in slot 0, Console in slot 1, the rest empty (R26, R126, decision D17). -/
def State.defaultDevices : Vector (Option Device) 16 :=
  ((Vector.replicate 16 none).set 0 (some (.system SystemPorts.fresh))).set 1 (some Device.freshConsole)

/-- The machine at creation, every parameter at its default (R26, R124). -/
def State.reset : State :=
  { mem := []
    pc := Config.entryPc
    ws := Stack.empty
    rs := Stack.empty
    status := .cont
    dev := State.defaultDevices
    bus := []
    sub8Adds := Config.sub8Adds }

end Sys2Proof.Machine
end

