-- ==== Sys2Proof/Machine/Ops.lean ====
section
/-! DEFINITION. The named operations: field updates, memory (20_memory.md R28-R31), the stack primitives (R32-R35), the end of a
step and the raising of a fault (60_exceptions.md R106-R108). -/

namespace Sys2Proof.Machine

/-- What an instruction's meaning answers. -/
abbrev Result := Host.Outcome State Fault Refusal

/-! ## Field updates -/

/-- `pc <- t` (R14). -/
def State.setPc (s : State) (t : Short) : State := { s with pc := t }

/-- Replaces the memory. -/
def State.setMem (s : State) (m : Memory) : State := { s with mem := m }

/-- Replaces the outcome of the step (R20). -/
def State.setStatus (s : State) (x : Status) : State := { s with status := x }

/-- Replaces the device table. -/
def State.setDev (s : State) (d : Vector (Option Device) 16) : State := { s with dev := d }

/-- Adds an event to the bus record (45_device_io.md R94). -/
def State.record (s : State) (e : BusEvent) : State := { s with bus := s.bus ++ [e] }

/-- One of the two stacks (R16). -/
def State.stack (s : State) : StackSel → Stack
  | .ws => s.ws
  | .rs => s.rs

/-- Replaces one of the two stacks. -/
def State.setStack (s : State) (x : StackSel) (st : Stack) : State :=
  match x with
  | .ws => { s with ws := st }
  | .rs => { s with rs := st }

/-- The stack that is not `x` (30_encoding.md R47). -/
def StackSel.other : StackSel → StackSel
  | .ws => .rs
  | .rs => .ws

/-! ## Memory -/

/-- What an address that memory does not list reads as: 0x00, the contents at creation (R26, decision D14). -/
def Memory.unlisted : Byte := 0

/-- The byte at an address. -/
def Memory.read : Memory → Nat → Byte
  | [], _ => Memory.unlisted
  | (b, v) :: m, a => if b = a then v else Memory.read m a

/-- Puts an entry in front, unless it says what an unlisted address says. -/
def Memory.cons (a : Nat) (v : Byte) (m : Memory) : Memory :=
  if v = Memory.unlisted then m else (a, v) :: m

/-- Memory with one byte written, in canonical form. -/
def Memory.write : Memory → Nat → Byte → Memory
  | [], a, v => Memory.cons a v []
  | (b, x) :: m, a, v =>
    if a < b then Memory.cons a v ((b, x) :: m)
    else if a = b then Memory.cons a v m
    else (b, x) :: Memory.write m a v

/-- Every address is at least `lo` and below 65536, addresses strictly rise, and no entry holds the unlisted value. -/
def Memory.wfFrom : Nat → Memory → Bool
  | _, [] => true
  | lo, (a, v) :: m => decide (lo ≤ a) && decide (a < 65536) && decide (v ≠ Memory.unlisted) && Memory.wfFrom (a + 1) m

/-- The canonical form of memory. -/
def Memory.wf (m : Memory) : Bool := Memory.wfFrom 0 m

/-- `mem[a]`. -/
def State.byteAt (s : State) (a : Short) : Byte := Memory.read s.mem a.toNat

/-- `mem[a] <- v`. -/
def State.setByte (s : State) (a : Short) (v : Byte) : State := s.setMem (Memory.write s.mem a.toNat v)

/-- `MemRead(a, w)`: big-endian, the second address mod 65536 (R28, R31). -/
def State.memRead (s : State) (a : Short) : Width → Short
  | .byte => zext16 (s.byteAt a)
  | .short => shortOf (s.byteAt a) (s.byteAt (a + 1))

/-- `MemWrite(a, w, v)`: big-endian, the second address mod 65536 (R29, R31). -/
def State.memWrite (s : State) (a : Short) (w : Width) (v : Short) : State :=
  match w with
  | .byte => s.setByte a (loByte v)
  | .short => (s.setByte a (hiByte v)).setByte (a + 1) (loByte v)

/-! ## Stacks -/

/-- `reserve(S, c, p, k)`: the capacity check, and the new pointer (R32). -/
def Stack.reserve (st : Stack) (c p : Nat) (k : Bool) : Except FaultKind Stack :=
  if c > st.sp.toNat then .error .underflow
  else
    let n := if k then st.sp.toNat + p else st.sp.toNat - c + p
    if n > 255 then .error .overflow else .ok { st with sp := BitVec.ofNat 8 n }

/-- `S.dat[base - i]` (R33). -/
def Stack.below (st : Stack) (base : Byte) (i : Nat) : Byte :=
  st.dat[(base - BitVec.ofNat 8 i).toNat]'(base - BitVec.ofNat 8 i).isLt

/-- `peek(S, base, i, w)`: the most significant byte of a short lies deeper (R18, R33). -/
def Stack.peek (st : Stack) (base : Byte) (i : Nat) : Width → Short
  | .byte => zext16 (st.below base i)
  | .short => shortOf (st.below base (i + 1)) (st.below base i)

/-- `S.dat[S.sp - i] <- v` (R34). -/
def Stack.putByte (st : Stack) (i : Nat) (v : Byte) : Stack :=
  { st with dat := st.dat.set (st.sp - BitVec.ofNat 8 i).toNat v (st.sp - BitVec.ofNat 8 i).isLt }

/-- `put(S, i, w, v)`: the value is cut to `w` bytes, the most significant byte of a short lies deeper (R34). -/
def Stack.put (st : Stack) (i : Nat) (w : Width) (v : Short) : Stack :=
  match w with
  | .byte => st.putByte i (loByte v)
  | .short => (st.putByte i (loByte v)).putByte (i + 1) (hiByte v)

/-- `put` on one of the machine's stacks. -/
def State.put (s : State) (x : StackSel) (i : Nat) (w : Width) (v : Short) : State :=
  s.setStack x ((s.stack x).put i w v)

/-- `peek(S, sp0, i, w)`, taken in the state in which the instruction begins its stack work, so that `sp0` is its pointer and no
result is written yet (R35, decision D13). -/
def State.peek (s : State) (x : StackSel) (i : Nat) (w : Width) : Short :=
  (s.stack x).peek (s.stack x).sp i w

/-! ## The end of a step -/

/-- The pseudocode reached its end: outcome `Continue` (R108). -/
def State.complete (s : State) : Result := .next (s.setStatus .cont)

/-- `halt`: outcome `Halted` (R107). -/
def State.halt (s : State) : Result := .next (s.setStatus .halted)

/-- `raise F`, the block's whole exception entry: outcome `Fault(F)`, the state stays as the pseudocode left it, nothing is saved and
control goes nowhere (R106, R110).  There is no return from it: the next step continues at the current pc (R111). -/
def State.raise (s : State) (kind : FaultKind) : Result := .next (s.setStatus (.fault kind))

/-- A capacity check on stack `x` as a step of the pseudocode: raise, or commit the new pointer and go on (R32, R35, R106). -/
def State.reserving (s : State) (x : StackSel) (c p : Nat) (k : Bool) (andThen : State → Result) : Result :=
  match (s.stack x).reserve c p k with
  | .error kind => s.raise kind
  | .ok st => andThen (s.setStack x st)

end Sys2Proof.Machine
end

