-- ==== Sys2Proof/Machine/Operands.lean ====
section
/-! DEFINITION. Every operand form: the active and the other stack (30_encoding.md R47), inline operands (R51), jump targets
(43_control.md R77) and effective addresses (44_memory_ops.md). -/

namespace Sys2Proof.Machine

/-- The active stack S that the return flag selects (R47). -/
def activeStack (m : Mode) : StackSel := if m.ret then .rs else .ws

/-- The other stack O (R47). -/
def otherStack (m : Mode) : StackSel := (activeStack m).other

/-- Moves the pc past `n` inline operand bytes (R15, R51, R55). -/
def State.skip (s : State) (n : Nat) : State := s.setPc (s.pc + BitVec.ofNat 16 n)

/-- `jumpTarget(t, w)`: a signed offset to the pc in the byte form, an absolute address in the short form (R77, decision D4). -/
def State.jumpTarget (s : State) (t : Short) : Width → Short
  | .byte => s.pc + sext8 (loByte t)
  | .short => t

/-- The target of an immediate jump: the pc, already past the operand, plus the offset (R51). -/
def State.inlineTarget (s : State) (d : Short) : Short := s.pc + d

/-- The zero page address of LDZ and STZ: `zext_16(a8)` (R81, R82). -/
def zeroPageAddr (a8 : Byte) : Short := zext16 a8

/-- The address of LDR and STR: the pc after decode plus a signed byte (R83, R84). -/
def State.relativeAddr (s : State) (d8 : Byte) : Short := s.pc + sext8 d8

/-- The byte operand at offset `i` of stack `x`, read below the old pointer. -/
def State.peekByte (s : State) (x : StackSel) (i : Nat) : Byte := (s.stack x).below (s.stack x).sp i

/-- The device slot of a port address: `p8[7:4]` (45_device_io.md R87). -/
def slotOf (p8 : Byte) : BitVec 4 := p8.extractLsb' 4 4

/-- The port within the device: `p8[3:0]` (R87). -/
def portOf (p8 : Byte) : BitVec 4 := p8.extractLsb' 0 4

end Sys2Proof.Machine
end

