-- ==== Sys2Proof/Machine/Flags.lean ====
section
/-! DEFINITION. The hardware has no flags and no condition codes (10_state.md R19): a comparison pushes its result as a byte
(42_compare.md R72), and a conditional transfer tests a byte. -/

namespace Sys2Proof.Machine

/-- The byte a comparison pushes: 0x01 if the relation holds, else 0x00 (R72). -/
def boolByte (b : Bool) : Short := if b then 1 else 0

/-- What a conditional transfer tests: the whole byte, any non-zero value is true (R57, R78). -/
def nonZero (f : Byte) : Bool := f != 0

/-- Unsigned `a > b` (R75). -/
def greater (a b : Short) : Bool := decide (a.toNat > b.toNat)

/-- Unsigned `a < b` (R76). -/
def less (a b : Short) : Bool := decide (a.toNat < b.toNat)

end Sys2Proof.Machine
end

