-- ==== Sys2Proof/Machine/Arith.lean ====
section
/-! DEFINITION. Arithmetic (46_arith.md R97-R100).  A byte operand is its value as a 16-bit word; the 16-bit result cut to the width is the result
mod 2^(8w). -/

namespace Sys2Proof.Machine

/-- `( a b -- f a b )` on two width-w operands; `put` reduces the result mod 2^(8w) (00_scope.md R9). -/
def binaryOp (f : Short → Short → Short) (m : Mode) (s : State) : Result :=
  let S := activeStack m
  let w := m.width
  s.reserving S (2 * w.bytes) w.bytes m.keep fun s' =>
    let a := s.peek S (w.bytes + 1) w
    let b := s.peek S 1 w
    (s'.put S 1 w (f a b)).complete

/-- ADD (R97). -/
def addOp : Mode → State → Result := binaryOp fun a b => a + b

/-- ADD (R97). -/
def execAdd (s : State) : Result := addOp ⟨false, false, .byte⟩ s

/-- ADD2 (R97). -/
def execAdd2 (s : State) : Result := addOp ⟨false, false, .short⟩ s

/-- ADDr (R97). -/
def execAddr (s : State) : Result := addOp ⟨false, true, .byte⟩ s

/-- ADD2r (R97). -/
def execAdd2r (s : State) : Result := addOp ⟨false, true, .short⟩ s

/-- ADDk (R97). -/
def execAddk (s : State) : Result := addOp ⟨true, false, .byte⟩ s

/-- ADD2k (R97). -/
def execAdd2k (s : State) : Result := addOp ⟨true, false, .short⟩ s

/-- ADDkr (R97). -/
def execAddkr (s : State) : Result := addOp ⟨true, true, .byte⟩ s

/-- ADD2kr (R97). -/
def execAdd2kr (s : State) : Result := addOp ⟨true, true, .short⟩ s

/-- SUB; the byte form adds where the parameter SUB8_ADDS says so (R98, decision D3). -/
def subOp (m : Mode) (s : State) : Result :=
  match m.width, s.sub8Adds with
  | .byte, true => binaryOp (fun a b => a + b) m s
  | _, _ => binaryOp (fun a b => a - b) m s

/-- SUB (R98). -/
def execSub (s : State) : Result := subOp ⟨false, false, .byte⟩ s

/-- SUB2 (R98). -/
def execSub2 (s : State) : Result := subOp ⟨false, false, .short⟩ s

/-- SUBr (R98). -/
def execSubr (s : State) : Result := subOp ⟨false, true, .byte⟩ s

/-- SUB2r (R98). -/
def execSub2r (s : State) : Result := subOp ⟨false, true, .short⟩ s

/-- SUBk (R98). -/
def execSubk (s : State) : Result := subOp ⟨true, false, .byte⟩ s

/-- SUB2k (R98). -/
def execSub2k (s : State) : Result := subOp ⟨true, false, .short⟩ s

/-- SUBkr (R98). -/
def execSubkr (s : State) : Result := subOp ⟨true, true, .byte⟩ s

/-- SUB2kr (R98). -/
def execSub2kr (s : State) : Result := subOp ⟨true, true, .short⟩ s

/-- MUL (R99). -/
def mulOp : Mode → State → Result := binaryOp fun a b => a * b

/-- MUL (R99). -/
def execMul (s : State) : Result := mulOp ⟨false, false, .byte⟩ s

/-- MUL2 (R99). -/
def execMul2 (s : State) : Result := mulOp ⟨false, false, .short⟩ s

/-- MULr (R99). -/
def execMulr (s : State) : Result := mulOp ⟨false, true, .byte⟩ s

/-- MUL2r (R99). -/
def execMul2r (s : State) : Result := mulOp ⟨false, true, .short⟩ s

/-- MULk (R99). -/
def execMulk (s : State) : Result := mulOp ⟨true, false, .byte⟩ s

/-- MUL2k (R99). -/
def execMul2k (s : State) : Result := mulOp ⟨true, false, .short⟩ s

/-- MULkr (R99). -/
def execMulkr (s : State) : Result := mulOp ⟨true, true, .byte⟩ s

/-- MUL2kr (R99). -/
def execMul2kr (s : State) : Result := mulOp ⟨true, true, .short⟩ s

/-- DIV: a missing divisor, then a zero divisor, are tested before the capacity check (R100, R109, decision D9). -/
def divOp (m : Mode) (s : State) : Result :=
  let S := activeStack m
  let w := m.width
  if (s.stack S).sp.toNat < w.bytes then s.raise .underflow
  else if s.peek S 1 w = 0 then s.raise .zeroDiv
  else binaryOp (fun a b => a / b) m s

/-- DIV (R100). -/
def execDiv (s : State) : Result := divOp ⟨false, false, .byte⟩ s

/-- DIV2 (R100). -/
def execDiv2 (s : State) : Result := divOp ⟨false, false, .short⟩ s

/-- DIVr (R100). -/
def execDivr (s : State) : Result := divOp ⟨false, true, .byte⟩ s

/-- DIV2r (R100). -/
def execDiv2r (s : State) : Result := divOp ⟨false, true, .short⟩ s

/-- DIVk (R100). -/
def execDivk (s : State) : Result := divOp ⟨true, false, .byte⟩ s

/-- DIV2k (R100). -/
def execDiv2k (s : State) : Result := divOp ⟨true, false, .short⟩ s

/-- DIVkr (R100). -/
def execDivkr (s : State) : Result := divOp ⟨true, true, .byte⟩ s

/-- DIV2kr (R100). -/
def execDiv2kr (s : State) : Result := divOp ⟨true, true, .short⟩ s

end Sys2Proof.Machine
end

