-- ==== Sys2Proof/Machine/Bitwise.lean ====
section
/-! DEFINITION. Bitwise operations and the shift (47_bitwise.md R101-R104). -/

namespace Sys2Proof.Machine

/-- AND (R101). -/
def andOp : Mode → State → Result := binaryOp fun a b => a &&& b

/-- AND (R101). -/
def execAnd (s : State) : Result := andOp ⟨false, false, .byte⟩ s

/-- AND2 (R101). -/
def execAnd2 (s : State) : Result := andOp ⟨false, false, .short⟩ s

/-- ANDr (R101). -/
def execAndr (s : State) : Result := andOp ⟨false, true, .byte⟩ s

/-- AND2r (R101). -/
def execAnd2r (s : State) : Result := andOp ⟨false, true, .short⟩ s

/-- ANDk (R101). -/
def execAndk (s : State) : Result := andOp ⟨true, false, .byte⟩ s

/-- AND2k (R101). -/
def execAnd2k (s : State) : Result := andOp ⟨true, false, .short⟩ s

/-- ANDkr (R101). -/
def execAndkr (s : State) : Result := andOp ⟨true, true, .byte⟩ s

/-- AND2kr (R101). -/
def execAnd2kr (s : State) : Result := andOp ⟨true, true, .short⟩ s

/-- OR (R102). -/
def orOp : Mode → State → Result := binaryOp fun a b => a ||| b

/-- OR (R102). -/
def execOr (s : State) : Result := orOp ⟨false, false, .byte⟩ s

/-- OR2 (R102). -/
def execOr2 (s : State) : Result := orOp ⟨false, false, .short⟩ s

/-- ORr (R102). -/
def execOrr (s : State) : Result := orOp ⟨false, true, .byte⟩ s

/-- OR2r (R102). -/
def execOr2r (s : State) : Result := orOp ⟨false, true, .short⟩ s

/-- ORk (R102). -/
def execOrk (s : State) : Result := orOp ⟨true, false, .byte⟩ s

/-- OR2k (R102). -/
def execOr2k (s : State) : Result := orOp ⟨true, false, .short⟩ s

/-- ORkr (R102). -/
def execOrkr (s : State) : Result := orOp ⟨true, true, .byte⟩ s

/-- OR2kr (R102). -/
def execOr2kr (s : State) : Result := orOp ⟨true, true, .short⟩ s

/-- XOR (R103). -/
def xorOp : Mode → State → Result := binaryOp fun a b => a ^^^ b

/-- XOR (R103). -/
def execXor (s : State) : Result := xorOp ⟨false, false, .byte⟩ s

/-- XOR2 (R103). -/
def execXor2 (s : State) : Result := xorOp ⟨false, false, .short⟩ s

/-- XORr (R103). -/
def execXorr (s : State) : Result := xorOp ⟨false, true, .byte⟩ s

/-- XOR2r (R103). -/
def execXor2r (s : State) : Result := xorOp ⟨false, true, .short⟩ s

/-- XORk (R103). -/
def execXork (s : State) : Result := xorOp ⟨true, false, .byte⟩ s

/-- XOR2k (R103). -/
def execXor2k (s : State) : Result := xorOp ⟨true, false, .short⟩ s

/-- XORkr (R103). -/
def execXorkr (s : State) : Result := xorOp ⟨true, true, .byte⟩ s

/-- XOR2kr (R103). -/
def execXor2kr (s : State) : Result := xorOp ⟨true, true, .short⟩ s

/-- Right by the low nibble of the control byte, then left by the high nibble, zero fill (R104). -/
def shiftBy (a : Short) (c : Byte) : Short :=
  (a >>> (c.extractLsb' 0 4).toNat) <<< (c.extractLsb' 4 4).toNat

/-- SFT: `( a c8 -- r )` (R104). -/
def sftOp (m : Mode) (s : State) : Result :=
  let S := activeStack m
  let w := m.width
  s.reserving S (w.bytes + 1) w.bytes m.keep fun s' =>
    (s'.put S 1 w (shiftBy (s.peek S 2 w) (s.peekByte S 1))).complete

/-- SFT (R104). -/
def execSft (s : State) : Result := sftOp ⟨false, false, .byte⟩ s

/-- SFT2 (R104). -/
def execSft2 (s : State) : Result := sftOp ⟨false, false, .short⟩ s

/-- SFTr (R104). -/
def execSftr (s : State) : Result := sftOp ⟨false, true, .byte⟩ s

/-- SFT2r (R104). -/
def execSft2r (s : State) : Result := sftOp ⟨false, true, .short⟩ s

/-- SFTk (R104). -/
def execSftk (s : State) : Result := sftOp ⟨true, false, .byte⟩ s

/-- SFT2k (R104). -/
def execSft2k (s : State) : Result := sftOp ⟨true, false, .short⟩ s

/-- SFTkr (R104). -/
def execSftkr (s : State) : Result := sftOp ⟨true, true, .byte⟩ s

/-- SFT2kr (R104). -/
def execSft2kr (s : State) : Result := sftOp ⟨true, true, .short⟩ s

end Sys2Proof.Machine
end

