-- ==== Sys2Proof/Machine/Compare.lean ====
section
/-! DEFINITION. The comparisons (42_compare.md R72-R76): unsigned, the deeper operand is the left side. -/

namespace Sys2Proof.Machine

/-- A comparison: two width-w operands, one byte 0x01 or 0x00, in both widths (R72). -/
def compareOp (rel : Short → Short → Bool) (m : Mode) (s : State) : Result :=
  let S := activeStack m
  let w := m.width
  s.reserving S (2 * w.bytes) 1 m.keep fun s' =>
    let a := s.peek S (w.bytes + 1) w
    let b := s.peek S 1 w
    (s'.put S 1 .byte (boolByte (rel a b))).complete

/-- EQU: equal (R73). -/
def equOp : Mode → State → Result := compareOp fun a b => a == b

/-- EQU (R73). -/
def execEqu (s : State) : Result := equOp ⟨false, false, .byte⟩ s

/-- EQU2 (R73). -/
def execEqu2 (s : State) : Result := equOp ⟨false, false, .short⟩ s

/-- EQUr (R73). -/
def execEqur (s : State) : Result := equOp ⟨false, true, .byte⟩ s

/-- EQU2r (R73). -/
def execEqu2r (s : State) : Result := equOp ⟨false, true, .short⟩ s

/-- EQUk (R73). -/
def execEquk (s : State) : Result := equOp ⟨true, false, .byte⟩ s

/-- EQU2k (R73). -/
def execEqu2k (s : State) : Result := equOp ⟨true, false, .short⟩ s

/-- EQUkr (R73). -/
def execEqukr (s : State) : Result := equOp ⟨true, true, .byte⟩ s

/-- EQU2kr (R73). -/
def execEqu2kr (s : State) : Result := equOp ⟨true, true, .short⟩ s

/-- NEQ: not equal (R74). -/
def neqOp : Mode → State → Result := compareOp fun a b => a != b

/-- NEQ (R74). -/
def execNeq (s : State) : Result := neqOp ⟨false, false, .byte⟩ s

/-- NEQ2 (R74). -/
def execNeq2 (s : State) : Result := neqOp ⟨false, false, .short⟩ s

/-- NEQr (R74). -/
def execNeqr (s : State) : Result := neqOp ⟨false, true, .byte⟩ s

/-- NEQ2r (R74). -/
def execNeq2r (s : State) : Result := neqOp ⟨false, true, .short⟩ s

/-- NEQk (R74). -/
def execNeqk (s : State) : Result := neqOp ⟨true, false, .byte⟩ s

/-- NEQ2k (R74). -/
def execNeq2k (s : State) : Result := neqOp ⟨true, false, .short⟩ s

/-- NEQkr (R74). -/
def execNeqkr (s : State) : Result := neqOp ⟨true, true, .byte⟩ s

/-- NEQ2kr (R74). -/
def execNeq2kr (s : State) : Result := neqOp ⟨true, true, .short⟩ s

/-- GTH: greater than, unsigned (R75). -/
def gthOp : Mode → State → Result := compareOp greater

/-- GTH (R75). -/
def execGth (s : State) : Result := gthOp ⟨false, false, .byte⟩ s

/-- GTH2 (R75). -/
def execGth2 (s : State) : Result := gthOp ⟨false, false, .short⟩ s

/-- GTHr (R75). -/
def execGthr (s : State) : Result := gthOp ⟨false, true, .byte⟩ s

/-- GTH2r (R75). -/
def execGth2r (s : State) : Result := gthOp ⟨false, true, .short⟩ s

/-- GTHk (R75). -/
def execGthk (s : State) : Result := gthOp ⟨true, false, .byte⟩ s

/-- GTH2k (R75). -/
def execGth2k (s : State) : Result := gthOp ⟨true, false, .short⟩ s

/-- GTHkr (R75). -/
def execGthkr (s : State) : Result := gthOp ⟨true, true, .byte⟩ s

/-- GTH2kr (R75). -/
def execGth2kr (s : State) : Result := gthOp ⟨true, true, .short⟩ s

/-- LTH: less than, unsigned (R76). -/
def lthOp : Mode → State → Result := compareOp less

/-- LTH (R76). -/
def execLth (s : State) : Result := lthOp ⟨false, false, .byte⟩ s

/-- LTH2 (R76). -/
def execLth2 (s : State) : Result := lthOp ⟨false, false, .short⟩ s

/-- LTHr (R76). -/
def execLthr (s : State) : Result := lthOp ⟨false, true, .byte⟩ s

/-- LTH2r (R76). -/
def execLth2r (s : State) : Result := lthOp ⟨false, true, .short⟩ s

/-- LTHk (R76). -/
def execLthk (s : State) : Result := lthOp ⟨true, false, .byte⟩ s

/-- LTH2k (R76). -/
def execLth2k (s : State) : Result := lthOp ⟨true, false, .short⟩ s

/-- LTHkr (R76). -/
def execLthkr (s : State) : Result := lthOp ⟨true, true, .byte⟩ s

/-- LTH2kr (R76). -/
def execLth2kr (s : State) : Result := lthOp ⟨true, true, .short⟩ s

end Sys2Proof.Machine
end

