-- ==== Sys2Proof/Machine/Control.lean ====
section
/-! DEFINITION. Control transfer and stash (43_control.md R77-R80).  The pc is already past the instruction byte (30_encoding.md R44). -/

namespace Sys2Proof.Machine

/-- JMP: jump (R77). -/
def jmpOp (m : Mode) (s : State) : Result :=
  let S := activeStack m
  let w := m.width
  s.reserving S w.bytes 0 m.keep fun s' =>
    (s'.setPc (s.jumpTarget (s.peek S 1 w) w)).complete

/-- JMP (R77). -/
def execJmp (s : State) : Result := jmpOp ⟨false, false, .byte⟩ s

/-- JMP2 (R77). -/
def execJmp2 (s : State) : Result := jmpOp ⟨false, false, .short⟩ s

/-- JMPr (R77). -/
def execJmpr (s : State) : Result := jmpOp ⟨false, true, .byte⟩ s

/-- JMP2r (R77). -/
def execJmp2r (s : State) : Result := jmpOp ⟨false, true, .short⟩ s

/-- JMPk (R77). -/
def execJmpk (s : State) : Result := jmpOp ⟨true, false, .byte⟩ s

/-- JMP2k (R77). -/
def execJmp2k (s : State) : Result := jmpOp ⟨true, false, .short⟩ s

/-- JMPkr (R77). -/
def execJmpkr (s : State) : Result := jmpOp ⟨true, true, .byte⟩ s

/-- JMP2kr (R77). -/
def execJmp2kr (s : State) : Result := jmpOp ⟨true, true, .short⟩ s

/-- JCN: jump if the byte below the target is non-zero; both are consumed either way (R78). -/
def jcnOp (m : Mode) (s : State) : Result :=
  let S := activeStack m
  let w := m.width
  s.reserving S (w.bytes + 1) 0 m.keep fun s' =>
    if nonZero (s.peekByte S (w.bytes + 1)) then (s'.setPc (s.jumpTarget (s.peek S 1 w) w)).complete
    else s'.complete

/-- JCN (R78). -/
def execJcn (s : State) : Result := jcnOp ⟨false, false, .byte⟩ s

/-- JCN2 (R78). -/
def execJcn2 (s : State) : Result := jcnOp ⟨false, false, .short⟩ s

/-- JCNr (R78). -/
def execJcnr (s : State) : Result := jcnOp ⟨false, true, .byte⟩ s

/-- JCN2r (R78). -/
def execJcn2r (s : State) : Result := jcnOp ⟨false, true, .short⟩ s

/-- JCNk (R78). -/
def execJcnk (s : State) : Result := jcnOp ⟨true, false, .byte⟩ s

/-- JCN2k (R78). -/
def execJcn2k (s : State) : Result := jcnOp ⟨true, false, .short⟩ s

/-- JCNkr (R78). -/
def execJcnkr (s : State) : Result := jcnOp ⟨true, true, .byte⟩ s

/-- JCN2kr (R78). -/
def execJcn2kr (s : State) : Result := jcnOp ⟨true, true, .short⟩ s

/-- JSR: jump to subroutine, the return address goes to the other stack; two checks, the first one's pointer change stays (R79,
decisions D5, D6). -/
def jsrOp (m : Mode) (s : State) : Result :=
  let S := activeStack m
  let O := otherStack m
  let w := m.width
  s.reserving S w.bytes 0 m.keep fun s1 =>
    s1.reserving O 0 2 false fun s2 =>
      ((s2.put O 1 .short s.pc).setPc (s.jumpTarget (s.peek S 1 w) w)).complete

/-- JSR (R79). -/
def execJsr (s : State) : Result := jsrOp ⟨false, false, .byte⟩ s

/-- JSR2 (R79). -/
def execJsr2 (s : State) : Result := jsrOp ⟨false, false, .short⟩ s

/-- JSRr (R79). -/
def execJsrr (s : State) : Result := jsrOp ⟨false, true, .byte⟩ s

/-- JSR2r (R79). -/
def execJsr2r (s : State) : Result := jsrOp ⟨false, true, .short⟩ s

/-- JSRk (R79). -/
def execJsrk (s : State) : Result := jsrOp ⟨true, false, .byte⟩ s

/-- JSR2k (R79). -/
def execJsr2k (s : State) : Result := jsrOp ⟨true, false, .short⟩ s

/-- JSRkr (R79). -/
def execJsrkr (s : State) : Result := jsrOp ⟨true, true, .byte⟩ s

/-- JSR2kr (R79). -/
def execJsr2kr (s : State) : Result := jsrOp ⟨true, true, .short⟩ s

/-- STH: move the top item to the other stack; two checks, the first one's pointer change stays (R80, decision D6). -/
def sthOp (m : Mode) (s : State) : Result :=
  let S := activeStack m
  let O := otherStack m
  let w := m.width
  s.reserving S w.bytes 0 m.keep fun s1 =>
    s1.reserving O 0 w.bytes false fun s2 =>
      (s2.put O 1 w (s.peek S 1 w)).complete

/-- STH (R80). -/
def execSth (s : State) : Result := sthOp ⟨false, false, .byte⟩ s

/-- STH2 (R80). -/
def execSth2 (s : State) : Result := sthOp ⟨false, false, .short⟩ s

/-- STHr (R80). -/
def execSthr (s : State) : Result := sthOp ⟨false, true, .byte⟩ s

/-- STH2r (R80). -/
def execSth2r (s : State) : Result := sthOp ⟨false, true, .short⟩ s

/-- STHk (R80). -/
def execSthk (s : State) : Result := sthOp ⟨true, false, .byte⟩ s

/-- STH2k (R80). -/
def execSth2k (s : State) : Result := sthOp ⟨true, false, .short⟩ s

/-- STHkr (R80). -/
def execSthkr (s : State) : Result := sthOp ⟨true, true, .byte⟩ s

/-- STH2kr (R80). -/
def execSth2kr (s : State) : Result := sthOp ⟨true, true, .short⟩ s

end Sys2Proof.Machine
end

