-- ==== Sys2Proof/Machine/DeviceBus.lean ====
section
/-! DEFINITION. The device port multiplexer and the core-local devices (45_device_io.md R87-R94, 60_exceptions.md R115-R118). -/

namespace Sys2Proof.Machine

/-- What stands in a slot (R21). -/
def State.slot (s : State) (d : BitVec 4) : Option Device := s.dev[d.toNat]'d.isLt

/-- Replaces what stands in a slot. -/
def State.setSlot (s : State) (d : BitVec 4) (x : Option Device) : State := s.setDev (s.dev.set d.toNat x d.isLt)

/-- The byte behind a storage port of the System device (R115); ports 4 and 5 have none (R22). -/
def SystemPorts.read (r : SystemPorts) (p : BitVec 4) : Byte :=
  if h : p.toNat < 4 then r.low[p.toNat] else r.high[p.toNat - 6]'(by have := p.isLt; omega)

/-- Writes the byte behind a storage port of the System device (R115). -/
def SystemPorts.write (r : SystemPorts) (p : BitVec 4) (v : Byte) : SystemPorts :=
  if h : p.toNat < 4 then { r with low := r.low.set p.toNat v }
  else { r with high := r.high.set (p.toNat - 6) v (by have := p.isLt; omega) }

/-- `read_byte` of the System device: ports 4 and 5 are the live stack pointers, the rest is inert storage (R25, R92, R115). -/
def State.readSystem (s : State) (r : SystemPorts) (p : BitVec 4) : Byte :=
  if p = 4 then s.ws.sp else if p = 5 then s.rs.sp else r.read p

/-- `write_byte` of the System device in slot `d`: ports 4 and 5 set the stack pointers with no check and no change to the buffers
(R25), the rest is inert storage (R92, R115). -/
def State.writeSystem (s : State) (d : BitVec 4) (r : SystemPorts) (p : BitVec 4) (v : Byte) : State :=
  if p = 4 then s.setStack .ws { s.ws with sp := v }
  else if p = 5 then s.setStack .rs { s.rs with sp := v }
  else s.setSlot d (some (.system (r.write p v)))

/-- `read_byte` of a core-local device: System, or Console, all of whose ports are inert storage (R92, R118).  An empty slot answers 0
(R89). -/
def State.readPort (s : State) (d p : BitVec 4) : Byte :=
  match s.slot d with
  | some (.system r) => s.readSystem r p
  | some (.console r) => r[p.toNat]'p.isLt
  | some (.host _ _) => 0
  | none => 0

/-- `write_byte` of a core-local device (R92, R115, R118).  An empty slot discards the value (R90). -/
def State.writePort (s : State) (d p : BitVec 4) (v : Byte) : State :=
  match s.slot d with
  | some (.system r) => s.writeSystem d r p v
  | some (.console r) => s.setSlot d (some (.console (r.set p.toNat v p.isLt)))
  | some (.host _ _) => s
  | none => s

/-- A core-local device's read of width `w`: a short is composed of two byte ports, big-endian, the second port mod 16 (R91, decision
D20). -/
def State.readPorts (s : State) (d p : BitVec 4) : Width → Short
  | .byte => zext16 (s.readPort d p)
  | .short => shortOf (s.readPort d p) (s.readPort d (p + 1))

/-- A core-local device's write of width `w` (R91, decision D20). -/
def State.writePorts (s : State) (d p : BitVec 4) (w : Width) (v : Short) : State :=
  match w with
  | .byte => s.writePort d p (loByte v)
  | .short => (s.writePort d p (hiByte v)).writePort d (p + 1) (loByte v)

/-- The stack pointers as a device called now reads them (R88). -/
def State.pointers (s : State) : StackPointers := { ws := s.ws.sp, rs := s.rs.sp }

/-- A host device's read of width `w`: its answer and its new state, as the parameter HOST_DEVICE says, from its state and the stack
pointers (R88, D22). -/
def hostRead (id : Nat) (st : HostState) (sps : StackPointers) (p : BitVec 4) : Width → Short × HostState
  | .byte => (zext16 (Config.hostReadByte id st sps p).1, (Config.hostReadByte id st sps p).2)
  | .short => Config.hostReadShort id st sps p

/-- A host device's write of width `w`: its new state (R88, D22). -/
def hostWrite (id : Nat) (st : HostState) (sps : StackPointers) (p : BitVec 4) (w : Width) (v : Short) : HostState :=
  match w with
  | .byte => Config.hostWriteByte id st sps p (loByte v)
  | .short => Config.hostWriteShort id st sps p v

/-- `DevRead(d, p, w)`: 0 from an empty slot, else the device's answer; a call that reaches a device is recorded (R89, R93, R94).
A host device finds the pointers as the check before the call left them (R88, decision D8), and changes its own state alone (D22). -/
def State.devRead (s : State) (d p : BitVec 4) (w : Width) : Short × State :=
  match s.slot d with
  | none => (0, s)
  | some (.host id st) =>
    let r := hostRead id st s.pointers p w
    (r.1, (s.setSlot d (some (.host id r.2))).record ⟨.input, d, p, w, r.1⟩)
  | some (.system _) => (s.readPorts d p w, s.record ⟨.input, d, p, w, s.readPorts d p w⟩)
  | some (.console _) => (s.readPorts d p w, s.record ⟨.input, d, p, w, s.readPorts d p w⟩)

/-- `DevWrite(d, p, w, v)`: an empty slot discards the value, else the device takes it; a call that reaches a device is recorded
(R90, R93, R94).  A host device finds the pointers as both checks left them (R88), and changes its own state alone (D22). -/
def State.devWrite (s : State) (d p : BitVec 4) (w : Width) (v : Short) : State :=
  match s.slot d with
  | none => s
  | some (.host id st) =>
    (s.setSlot d (some (.host id (hostWrite id st s.pointers p w v)))).record ⟨.output, d, p, w, v⟩
  | some (.system _) => (s.writePorts d p w v).record ⟨.output, d, p, w, v⟩
  | some (.console _) => (s.writePorts d p w v).record ⟨.output, d, p, w, v⟩

end Sys2Proof.Machine
end

