-- ==== Sys2Proof/Machine/DeviceIo.lean ====
section
/-! DEFINITION. Device input and output (45_device_io.md R95, R96). -/

namespace Sys2Proof.Machine

/-- DEI: one check, then the device is read, so that System ports 4 and 5 show the pointers after the check (R95, decision D8). -/
def deiOp (m : Mode) (s : State) : Result :=
  let S := activeStack m
  let w := m.width
  let p8 := s.peekByte S 1
  s.reserving S 1 w.bytes m.keep fun s1 =>
    let r := s1.devRead (slotOf p8) (portOf p8) w
    (r.2.put S 1 w r.1).complete

/-- DEI (R95). -/
def execDei (s : State) : Result := deiOp ⟨false, false, .byte⟩ s

/-- DEI2 (R95). -/
def execDei2 (s : State) : Result := deiOp ⟨false, false, .short⟩ s

/-- DEIr (R95). -/
def execDeir (s : State) : Result := deiOp ⟨false, true, .byte⟩ s

/-- DEI2r (R95). -/
def execDei2r (s : State) : Result := deiOp ⟨false, true, .short⟩ s

/-- DEIk (R95). -/
def execDeik (s : State) : Result := deiOp ⟨true, false, .byte⟩ s

/-- DEI2k (R95). -/
def execDei2k (s : State) : Result := deiOp ⟨true, false, .short⟩ s

/-- DEIkr (R95). -/
def execDeikr (s : State) : Result := deiOp ⟨true, true, .byte⟩ s

/-- DEI2kr (R95). -/
def execDei2kr (s : State) : Result := deiOp ⟨true, true, .short⟩ s

/-- The rest of DEO once both checks have passed in `s'`: the operands are read as they stood at the start, in `s`, and the device's
write is the last effect (R96). -/
def deoWrite (m : Mode) (s s' : State) : Result :=
  let S := activeStack m
  let p8 := s.peekByte S 1
  (s'.devWrite (slotOf p8) (portOf p8) m.width (s.peek S 2 m.width)).complete

/-- DEO: two sequential checks, of the port byte and of the value; without keep the first one's pointer change stays, with keep the
second counts the kept port byte (R96, decision D7). -/
def deoOp (m : Mode) (s : State) : Result :=
  let S := activeStack m
  let w := m.width
  s.reserving S 1 0 m.keep fun s1 =>
    if m.keep then
      if (s.stack S).sp.toNat < 1 + w.bytes then s1.raise .underflow else deoWrite m s s1
    else s1.reserving S w.bytes 0 false fun s2 => deoWrite m s s2

/-- DEO (R96). -/
def execDeo (s : State) : Result := deoOp ⟨false, false, .byte⟩ s

/-- DEO2 (R96). -/
def execDeo2 (s : State) : Result := deoOp ⟨false, false, .short⟩ s

/-- DEOr (R96). -/
def execDeor (s : State) : Result := deoOp ⟨false, true, .byte⟩ s

/-- DEO2r (R96). -/
def execDeo2r (s : State) : Result := deoOp ⟨false, true, .short⟩ s

/-- DEOk (R96). -/
def execDeok (s : State) : Result := deoOp ⟨true, false, .byte⟩ s

/-- DEO2k (R96). -/
def execDeo2k (s : State) : Result := deoOp ⟨true, false, .short⟩ s

/-- DEOkr (R96). -/
def execDeokr (s : State) : Result := deoOp ⟨true, true, .byte⟩ s

/-- DEO2kr (R96). -/
def execDeo2kr (s : State) : Result := deoOp ⟨true, true, .short⟩ s

end Sys2Proof.Machine
end

