-- ==== Sys2Proof/Machine/Immediate.lean ====
section
/-! DEFINITION. The immediate opcodes (40_immediate.md R55-R63).  The pc is already past the instruction byte (30_encoding.md R44); each
moves it past its inline operand before any capacity check (R55, decision D10). -/

namespace Sys2Proof.Machine

/-- Pushes an inline value: nothing is consumed, Overflow if it does not fit (R60-R63). -/
def pushInline (x : StackSel) (w : Width) (v : Short) (s : State) : Result :=
  let s := s.skip w.bytes
  s.reserving x 0 w.bytes true fun s' => (s'.put x 1 w v).complete

/-- BRK: stop, the pc stays past the instruction byte (R56, decision D11). -/
def execBrk (s : State) : Result := s.halt

/-- JCI: pop a byte from ws, jump if it is non-zero (R57). -/
def execJci (d : Short) (s : State) : Result :=
  let s := s.skip 2
  s.reserving .ws 1 0 false fun s' =>
    if nonZero (s.peekByte .ws 1) then (s'.setPc (s.inlineTarget d)).complete else s'.complete

/-- JMI: jump (R58). -/
def execJmi (d : Short) (s : State) : Result :=
  let s := s.skip 2
  (s.setPc (s.inlineTarget d)).complete

/-- JSI: push the address after the operand on rs, then jump (R59). -/
def execJsi (d : Short) (s : State) : Result :=
  let s := s.skip 2
  s.reserving .rs 0 2 false fun s' =>
    ((s'.put .rs 1 .short s.pc).setPc (s.inlineTarget d)).complete

/-- LIT: push an inline byte on ws (R60). -/
def execLit (v : Byte) (s : State) : Result := pushInline .ws .byte (zext16 v) s

/-- LIT2: push an inline short on ws (R61). -/
def execLit2 (v : Short) (s : State) : Result := pushInline .ws .short v s

/-- LITr: push an inline byte on rs (R62). -/
def execLitr (v : Byte) (s : State) : Result := pushInline .rs .byte (zext16 v) s

/-- LIT2r: push an inline short on rs (R63). -/
def execLit2r (v : Short) (s : State) : Result := pushInline .rs .short v s

end Sys2Proof.Machine
end

