-- ==== Sys2Proof/Machine/LoadStore.lean ====
section
/-! DEFINITION. Loads and stores (44_memory_ops.md R81-R86). -/

namespace Sys2Proof.Machine

/-- A load whose address is given by a byte operand: `( x8 -- v )` (R81, R83). -/
def loadByteAddr (addr : Byte → Short) (m : Mode) (s : State) : Result :=
  let S := activeStack m
  let w := m.width
  s.reserving S 1 w.bytes m.keep fun s' =>
    (s'.put S 1 w (s.memRead (addr (s.peekByte S 1)) w)).complete

/-- A store whose address is given by a byte operand: `( v x8 -- )` (R82, R84). -/
def storeByteAddr (addr : Byte → Short) (m : Mode) (s : State) : Result :=
  let S := activeStack m
  let w := m.width
  s.reserving S (w.bytes + 1) 0 m.keep fun s' =>
    (s'.memWrite (addr (s.peekByte S 1)) w (s.peek S 2 w)).complete

/-- LDZ: load from the zero page (R81). -/
def ldzOp (m : Mode) (s : State) : Result := loadByteAddr zeroPageAddr m s

/-- LDZ (R81). -/
def execLdz (s : State) : Result := ldzOp ⟨false, false, .byte⟩ s

/-- LDZ2 (R81). -/
def execLdz2 (s : State) : Result := ldzOp ⟨false, false, .short⟩ s

/-- LDZr (R81). -/
def execLdzr (s : State) : Result := ldzOp ⟨false, true, .byte⟩ s

/-- LDZ2r (R81). -/
def execLdz2r (s : State) : Result := ldzOp ⟨false, true, .short⟩ s

/-- LDZk (R81). -/
def execLdzk (s : State) : Result := ldzOp ⟨true, false, .byte⟩ s

/-- LDZ2k (R81). -/
def execLdz2k (s : State) : Result := ldzOp ⟨true, false, .short⟩ s

/-- LDZkr (R81). -/
def execLdzkr (s : State) : Result := ldzOp ⟨true, true, .byte⟩ s

/-- LDZ2kr (R81). -/
def execLdz2kr (s : State) : Result := ldzOp ⟨true, true, .short⟩ s

/-- STZ: store to the zero page (R82). -/
def stzOp (m : Mode) (s : State) : Result := storeByteAddr zeroPageAddr m s

/-- STZ (R82). -/
def execStz (s : State) : Result := stzOp ⟨false, false, .byte⟩ s

/-- STZ2 (R82). -/
def execStz2 (s : State) : Result := stzOp ⟨false, false, .short⟩ s

/-- STZr (R82). -/
def execStzr (s : State) : Result := stzOp ⟨false, true, .byte⟩ s

/-- STZ2r (R82). -/
def execStz2r (s : State) : Result := stzOp ⟨false, true, .short⟩ s

/-- STZk (R82). -/
def execStzk (s : State) : Result := stzOp ⟨true, false, .byte⟩ s

/-- STZ2k (R82). -/
def execStz2k (s : State) : Result := stzOp ⟨true, false, .short⟩ s

/-- STZkr (R82). -/
def execStzkr (s : State) : Result := stzOp ⟨true, true, .byte⟩ s

/-- STZ2kr (R82). -/
def execStz2kr (s : State) : Result := stzOp ⟨true, true, .short⟩ s

/-- LDR: load relative to the pc after decode (R83). -/
def ldrOp (m : Mode) (s : State) : Result := loadByteAddr s.relativeAddr m s

/-- LDR (R83). -/
def execLdr (s : State) : Result := ldrOp ⟨false, false, .byte⟩ s

/-- LDR2 (R83). -/
def execLdr2 (s : State) : Result := ldrOp ⟨false, false, .short⟩ s

/-- LDRr (R83). -/
def execLdrr (s : State) : Result := ldrOp ⟨false, true, .byte⟩ s

/-- LDR2r (R83). -/
def execLdr2r (s : State) : Result := ldrOp ⟨false, true, .short⟩ s

/-- LDRk (R83). -/
def execLdrk (s : State) : Result := ldrOp ⟨true, false, .byte⟩ s

/-- LDR2k (R83). -/
def execLdr2k (s : State) : Result := ldrOp ⟨true, false, .short⟩ s

/-- LDRkr (R83). -/
def execLdrkr (s : State) : Result := ldrOp ⟨true, true, .byte⟩ s

/-- LDR2kr (R83). -/
def execLdr2kr (s : State) : Result := ldrOp ⟨true, true, .short⟩ s

/-- STR: store relative to the pc after decode (R84). -/
def strOp (m : Mode) (s : State) : Result := storeByteAddr s.relativeAddr m s

/-- STR (R84). -/
def execStr (s : State) : Result := strOp ⟨false, false, .byte⟩ s

/-- STR2 (R84). -/
def execStr2 (s : State) : Result := strOp ⟨false, false, .short⟩ s

/-- STRr (R84). -/
def execStrr (s : State) : Result := strOp ⟨false, true, .byte⟩ s

/-- STR2r (R84). -/
def execStr2r (s : State) : Result := strOp ⟨false, true, .short⟩ s

/-- STRk (R84). -/
def execStrk (s : State) : Result := strOp ⟨true, false, .byte⟩ s

/-- STR2k (R84). -/
def execStr2k (s : State) : Result := strOp ⟨true, false, .short⟩ s

/-- STRkr (R84). -/
def execStrkr (s : State) : Result := strOp ⟨true, true, .byte⟩ s

/-- STR2kr (R84). -/
def execStr2kr (s : State) : Result := strOp ⟨true, true, .short⟩ s

/-- LDA: load absolute, `( a16 -- v )` (R85). -/
def ldaOp (m : Mode) (s : State) : Result :=
  let S := activeStack m
  let w := m.width
  s.reserving S 2 w.bytes m.keep fun s' =>
    (s'.put S 1 w (s.memRead (s.peek S 1 .short) w)).complete

/-- LDA (R85). -/
def execLda (s : State) : Result := ldaOp ⟨false, false, .byte⟩ s

/-- LDA2 (R85). -/
def execLda2 (s : State) : Result := ldaOp ⟨false, false, .short⟩ s

/-- LDAr (R85). -/
def execLdar (s : State) : Result := ldaOp ⟨false, true, .byte⟩ s

/-- LDA2r (R85). -/
def execLda2r (s : State) : Result := ldaOp ⟨false, true, .short⟩ s

/-- LDAk (R85). -/
def execLdak (s : State) : Result := ldaOp ⟨true, false, .byte⟩ s

/-- LDA2k (R85). -/
def execLda2k (s : State) : Result := ldaOp ⟨true, false, .short⟩ s

/-- LDAkr (R85). -/
def execLdakr (s : State) : Result := ldaOp ⟨true, true, .byte⟩ s

/-- LDA2kr (R85). -/
def execLda2kr (s : State) : Result := ldaOp ⟨true, true, .short⟩ s

/-- STA: store absolute, `( v a16 -- )` (R86). -/
def staOp (m : Mode) (s : State) : Result :=
  let S := activeStack m
  let w := m.width
  s.reserving S (w.bytes + 2) 0 m.keep fun s' =>
    (s'.memWrite (s.peek S 1 .short) w (s.peek S 3 w)).complete

/-- STA (R86). -/
def execSta (s : State) : Result := staOp ⟨false, false, .byte⟩ s

/-- STA2 (R86). -/
def execSta2 (s : State) : Result := staOp ⟨false, false, .short⟩ s

/-- STAr (R86). -/
def execStar (s : State) : Result := staOp ⟨false, true, .byte⟩ s

/-- STA2r (R86). -/
def execSta2r (s : State) : Result := staOp ⟨false, true, .short⟩ s

/-- STAk (R86). -/
def execStak (s : State) : Result := staOp ⟨true, false, .byte⟩ s

/-- STA2k (R86). -/
def execSta2k (s : State) : Result := staOp ⟨true, false, .short⟩ s

/-- STAkr (R86). -/
def execStakr (s : State) : Result := staOp ⟨true, true, .byte⟩ s

/-- STA2kr (R86). -/
def execSta2kr (s : State) : Result := staOp ⟨true, true, .short⟩ s

end Sys2Proof.Machine
end

