-- ==== Sys2Proof/Machine/StackOps.lean ====
section
/-! DEFINITION. The stack shuffles (41_stack.md R64-R71).  Each takes the flags of its form, makes one capacity check with the counts of
its rule, reads its operands below the old pointer and writes its results below the new one (20_memory.md R35). -/

namespace Sys2Proof.Machine

/-- INC: `( a -- a+1 )`, mod 2^(8w) (R65). -/
def incOp (m : Mode) (s : State) : Result :=
  let S := activeStack m
  let w := m.width
  s.reserving S w.bytes w.bytes m.keep fun s' =>
    (s'.put S 1 w (s.peek S 1 w + 1)).complete

/-- INC (R65). -/
def execInc (s : State) : Result := incOp ⟨false, false, .byte⟩ s

/-- INC2 (R65). -/
def execInc2 (s : State) : Result := incOp ⟨false, false, .short⟩ s

/-- INCr (R65). -/
def execIncr (s : State) : Result := incOp ⟨false, true, .byte⟩ s

/-- INC2r (R65). -/
def execInc2r (s : State) : Result := incOp ⟨false, true, .short⟩ s

/-- INCk (R65). -/
def execInck (s : State) : Result := incOp ⟨true, false, .byte⟩ s

/-- INC2k (R65). -/
def execInc2k (s : State) : Result := incOp ⟨true, false, .short⟩ s

/-- INCkr (R65). -/
def execInckr (s : State) : Result := incOp ⟨true, true, .byte⟩ s

/-- INC2kr (R65). -/
def execInc2kr (s : State) : Result := incOp ⟨true, true, .short⟩ s

/-- POP: `( a -- )` (R66). -/
def popOp (m : Mode) (s : State) : Result :=
  s.reserving (activeStack m) m.width.bytes 0 m.keep State.complete

/-- POP (R66). -/
def execPop (s : State) : Result := popOp ⟨false, false, .byte⟩ s

/-- POP2 (R66). -/
def execPop2 (s : State) : Result := popOp ⟨false, false, .short⟩ s

/-- POPr (R66). -/
def execPopr (s : State) : Result := popOp ⟨false, true, .byte⟩ s

/-- POP2r (R66). -/
def execPop2r (s : State) : Result := popOp ⟨false, true, .short⟩ s

/-- POPk (R66). -/
def execPopk (s : State) : Result := popOp ⟨true, false, .byte⟩ s

/-- POP2k (R66). -/
def execPop2k (s : State) : Result := popOp ⟨true, false, .short⟩ s

/-- POPkr (R66). -/
def execPopkr (s : State) : Result := popOp ⟨true, true, .byte⟩ s

/-- POP2kr (R66). -/
def execPop2kr (s : State) : Result := popOp ⟨true, true, .short⟩ s

/-- NIP: `( a b -- b )` (R67). -/
def nipOp (m : Mode) (s : State) : Result :=
  let S := activeStack m
  let w := m.width
  s.reserving S (2 * w.bytes) w.bytes m.keep fun s' =>
    (s'.put S 1 w (s.peek S 1 w)).complete

/-- NIP (R67). -/
def execNip (s : State) : Result := nipOp ⟨false, false, .byte⟩ s

/-- NIP2 (R67). -/
def execNip2 (s : State) : Result := nipOp ⟨false, false, .short⟩ s

/-- NIPr (R67). -/
def execNipr (s : State) : Result := nipOp ⟨false, true, .byte⟩ s

/-- NIP2r (R67). -/
def execNip2r (s : State) : Result := nipOp ⟨false, true, .short⟩ s

/-- NIPk (R67). -/
def execNipk (s : State) : Result := nipOp ⟨true, false, .byte⟩ s

/-- NIP2k (R67). -/
def execNip2k (s : State) : Result := nipOp ⟨true, false, .short⟩ s

/-- NIPkr (R67). -/
def execNipkr (s : State) : Result := nipOp ⟨true, true, .byte⟩ s

/-- NIP2kr (R67). -/
def execNip2kr (s : State) : Result := nipOp ⟨true, true, .short⟩ s

/-- SWP: `( a b -- b a )` (R68). -/
def swpOp (m : Mode) (s : State) : Result :=
  let S := activeStack m
  let w := m.width
  s.reserving S (2 * w.bytes) (2 * w.bytes) m.keep fun s' =>
    let a := s.peek S (w.bytes + 1) w
    let b := s.peek S 1 w
    ((s'.put S (w.bytes + 1) w b).put S 1 w a).complete

/-- SWP (R68). -/
def execSwp (s : State) : Result := swpOp ⟨false, false, .byte⟩ s

/-- SWP2 (R68). -/
def execSwp2 (s : State) : Result := swpOp ⟨false, false, .short⟩ s

/-- SWPr (R68). -/
def execSwpr (s : State) : Result := swpOp ⟨false, true, .byte⟩ s

/-- SWP2r (R68). -/
def execSwp2r (s : State) : Result := swpOp ⟨false, true, .short⟩ s

/-- SWPk (R68). -/
def execSwpk (s : State) : Result := swpOp ⟨true, false, .byte⟩ s

/-- SWP2k (R68). -/
def execSwp2k (s : State) : Result := swpOp ⟨true, false, .short⟩ s

/-- SWPkr (R68). -/
def execSwpkr (s : State) : Result := swpOp ⟨true, true, .byte⟩ s

/-- SWP2kr (R68). -/
def execSwp2kr (s : State) : Result := swpOp ⟨true, true, .short⟩ s

/-- ROT: `( a b c -- b c a )` (R69). -/
def rotOp (m : Mode) (s : State) : Result :=
  let S := activeStack m
  let w := m.width
  s.reserving S (3 * w.bytes) (3 * w.bytes) m.keep fun s' =>
    let a := s.peek S (2 * w.bytes + 1) w
    let b := s.peek S (w.bytes + 1) w
    let c := s.peek S 1 w
    (((s'.put S (2 * w.bytes + 1) w b).put S (w.bytes + 1) w c).put S 1 w a).complete

/-- ROT (R69). -/
def execRot (s : State) : Result := rotOp ⟨false, false, .byte⟩ s

/-- ROT2 (R69). -/
def execRot2 (s : State) : Result := rotOp ⟨false, false, .short⟩ s

/-- ROTr (R69). -/
def execRotr (s : State) : Result := rotOp ⟨false, true, .byte⟩ s

/-- ROT2r (R69). -/
def execRot2r (s : State) : Result := rotOp ⟨false, true, .short⟩ s

/-- ROTk (R69). -/
def execRotk (s : State) : Result := rotOp ⟨true, false, .byte⟩ s

/-- ROT2k (R69). -/
def execRot2k (s : State) : Result := rotOp ⟨true, false, .short⟩ s

/-- ROTkr (R69). -/
def execRotkr (s : State) : Result := rotOp ⟨true, true, .byte⟩ s

/-- ROT2kr (R69). -/
def execRot2kr (s : State) : Result := rotOp ⟨true, true, .short⟩ s

/-- DUP: `( a -- a a )` (R70). -/
def dupOp (m : Mode) (s : State) : Result :=
  let S := activeStack m
  let w := m.width
  s.reserving S w.bytes (2 * w.bytes) m.keep fun s' =>
    let a := s.peek S 1 w
    ((s'.put S (w.bytes + 1) w a).put S 1 w a).complete

/-- DUP (R70). -/
def execDup (s : State) : Result := dupOp ⟨false, false, .byte⟩ s

/-- DUP2 (R70). -/
def execDup2 (s : State) : Result := dupOp ⟨false, false, .short⟩ s

/-- DUPr (R70). -/
def execDupr (s : State) : Result := dupOp ⟨false, true, .byte⟩ s

/-- DUP2r (R70). -/
def execDup2r (s : State) : Result := dupOp ⟨false, true, .short⟩ s

/-- DUPk (R70). -/
def execDupk (s : State) : Result := dupOp ⟨true, false, .byte⟩ s

/-- DUP2k (R70). -/
def execDup2k (s : State) : Result := dupOp ⟨true, false, .short⟩ s

/-- DUPkr (R70). -/
def execDupkr (s : State) : Result := dupOp ⟨true, true, .byte⟩ s

/-- DUP2kr (R70). -/
def execDup2kr (s : State) : Result := dupOp ⟨true, true, .short⟩ s

/-- OVR: `( a b -- a b a )` (R71). -/
def ovrOp (m : Mode) (s : State) : Result :=
  let S := activeStack m
  let w := m.width
  s.reserving S (2 * w.bytes) (3 * w.bytes) m.keep fun s' =>
    let a := s.peek S (w.bytes + 1) w
    let b := s.peek S 1 w
    (((s'.put S (2 * w.bytes + 1) w a).put S (w.bytes + 1) w b).put S 1 w a).complete

/-- OVR (R71). -/
def execOvr (s : State) : Result := ovrOp ⟨false, false, .byte⟩ s

/-- OVR2 (R71). -/
def execOvr2 (s : State) : Result := ovrOp ⟨false, false, .short⟩ s

/-- OVRr (R71). -/
def execOvrr (s : State) : Result := ovrOp ⟨false, true, .byte⟩ s

/-- OVR2r (R71). -/
def execOvr2r (s : State) : Result := ovrOp ⟨false, true, .short⟩ s

/-- OVRk (R71). -/
def execOvrk (s : State) : Result := ovrOp ⟨true, false, .byte⟩ s

/-- OVR2k (R71). -/
def execOvr2k (s : State) : Result := ovrOp ⟨true, false, .short⟩ s

/-- OVRkr (R71). -/
def execOvrkr (s : State) : Result := ovrOp ⟨true, true, .byte⟩ s

/-- OVR2kr (R71). -/
def execOvr2kr (s : State) : Result := ovrOp ⟨true, true, .short⟩ s

end Sys2Proof.Machine
end

