-- ==== Sys2Proof/Machine/Dispatch.lean ====
section
/-! DEFINITION. One arm per instruction (30_encoding.md R46).  The pc of the state is already past the instruction byte (R44). -/

namespace Sys2Proof.Machine

def exec (i : Instr) (s : State) : Host.Outcome State Fault Refusal :=
  match i with
  | .brk => Sys2Proof.Machine.execBrk s
  | .inc => Sys2Proof.Machine.execInc s
  | .pop => Sys2Proof.Machine.execPop s
  | .nip => Sys2Proof.Machine.execNip s
  | .swp => Sys2Proof.Machine.execSwp s
  | .rot => Sys2Proof.Machine.execRot s
  | .dup => Sys2Proof.Machine.execDup s
  | .ovr => Sys2Proof.Machine.execOvr s
  | .equ => Sys2Proof.Machine.execEqu s
  | .neq => Sys2Proof.Machine.execNeq s
  | .gth => Sys2Proof.Machine.execGth s
  | .lth => Sys2Proof.Machine.execLth s
  | .jmp => Sys2Proof.Machine.execJmp s
  | .jcn => Sys2Proof.Machine.execJcn s
  | .jsr => Sys2Proof.Machine.execJsr s
  | .sth => Sys2Proof.Machine.execSth s
  | .ldz => Sys2Proof.Machine.execLdz s
  | .stz => Sys2Proof.Machine.execStz s
  | .ldr => Sys2Proof.Machine.execLdr s
  | .str => Sys2Proof.Machine.execStr s
  | .lda => Sys2Proof.Machine.execLda s
  | .sta => Sys2Proof.Machine.execSta s
  | .dei => Sys2Proof.Machine.execDei s
  | .deo => Sys2Proof.Machine.execDeo s
  | .add => Sys2Proof.Machine.execAdd s
  | .sub => Sys2Proof.Machine.execSub s
  | .mul => Sys2Proof.Machine.execMul s
  | .div => Sys2Proof.Machine.execDiv s
  | .and => Sys2Proof.Machine.execAnd s
  | .or => Sys2Proof.Machine.execOr s
  | .xor => Sys2Proof.Machine.execXor s
  | .sft => Sys2Proof.Machine.execSft s
  | .jci d => Sys2Proof.Machine.execJci d s
  | .inc2 => Sys2Proof.Machine.execInc2 s
  | .pop2 => Sys2Proof.Machine.execPop2 s
  | .nip2 => Sys2Proof.Machine.execNip2 s
  | .swp2 => Sys2Proof.Machine.execSwp2 s
  | .rot2 => Sys2Proof.Machine.execRot2 s
  | .dup2 => Sys2Proof.Machine.execDup2 s
  | .ovr2 => Sys2Proof.Machine.execOvr2 s
  | .equ2 => Sys2Proof.Machine.execEqu2 s
  | .neq2 => Sys2Proof.Machine.execNeq2 s
  | .gth2 => Sys2Proof.Machine.execGth2 s
  | .lth2 => Sys2Proof.Machine.execLth2 s
  | .jmp2 => Sys2Proof.Machine.execJmp2 s
  | .jcn2 => Sys2Proof.Machine.execJcn2 s
  | .jsr2 => Sys2Proof.Machine.execJsr2 s
  | .sth2 => Sys2Proof.Machine.execSth2 s
  | .ldz2 => Sys2Proof.Machine.execLdz2 s
  | .stz2 => Sys2Proof.Machine.execStz2 s
  | .ldr2 => Sys2Proof.Machine.execLdr2 s
  | .str2 => Sys2Proof.Machine.execStr2 s
  | .lda2 => Sys2Proof.Machine.execLda2 s
  | .sta2 => Sys2Proof.Machine.execSta2 s
  | .dei2 => Sys2Proof.Machine.execDei2 s
  | .deo2 => Sys2Proof.Machine.execDeo2 s
  | .add2 => Sys2Proof.Machine.execAdd2 s
  | .sub2 => Sys2Proof.Machine.execSub2 s
  | .mul2 => Sys2Proof.Machine.execMul2 s
  | .div2 => Sys2Proof.Machine.execDiv2 s
  | .and2 => Sys2Proof.Machine.execAnd2 s
  | .or2 => Sys2Proof.Machine.execOr2 s
  | .xor2 => Sys2Proof.Machine.execXor2 s
  | .sft2 => Sys2Proof.Machine.execSft2 s
  | .jmi d => Sys2Proof.Machine.execJmi d s
  | .incr => Sys2Proof.Machine.execIncr s
  | .popr => Sys2Proof.Machine.execPopr s
  | .nipr => Sys2Proof.Machine.execNipr s
  | .swpr => Sys2Proof.Machine.execSwpr s
  | .rotr => Sys2Proof.Machine.execRotr s
  | .dupr => Sys2Proof.Machine.execDupr s
  | .ovrr => Sys2Proof.Machine.execOvrr s
  | .equr => Sys2Proof.Machine.execEqur s
  | .neqr => Sys2Proof.Machine.execNeqr s
  | .gthr => Sys2Proof.Machine.execGthr s
  | .lthr => Sys2Proof.Machine.execLthr s
  | .jmpr => Sys2Proof.Machine.execJmpr s
  | .jcnr => Sys2Proof.Machine.execJcnr s
  | .jsrr => Sys2Proof.Machine.execJsrr s
  | .sthr => Sys2Proof.Machine.execSthr s
  | .ldzr => Sys2Proof.Machine.execLdzr s
  | .stzr => Sys2Proof.Machine.execStzr s
  | .ldrr => Sys2Proof.Machine.execLdrr s
  | .strr => Sys2Proof.Machine.execStrr s
  | .ldar => Sys2Proof.Machine.execLdar s
  | .star => Sys2Proof.Machine.execStar s
  | .deir => Sys2Proof.Machine.execDeir s
  | .deor => Sys2Proof.Machine.execDeor s
  | .addr => Sys2Proof.Machine.execAddr s
  | .subr => Sys2Proof.Machine.execSubr s
  | .mulr => Sys2Proof.Machine.execMulr s
  | .divr => Sys2Proof.Machine.execDivr s
  | .andr => Sys2Proof.Machine.execAndr s
  | .orr => Sys2Proof.Machine.execOrr s
  | .xorr => Sys2Proof.Machine.execXorr s
  | .sftr => Sys2Proof.Machine.execSftr s
  | .jsi d => Sys2Proof.Machine.execJsi d s
  | .inc2r => Sys2Proof.Machine.execInc2r s
  | .pop2r => Sys2Proof.Machine.execPop2r s
  | .nip2r => Sys2Proof.Machine.execNip2r s
  | .swp2r => Sys2Proof.Machine.execSwp2r s
  | .rot2r => Sys2Proof.Machine.execRot2r s
  | .dup2r => Sys2Proof.Machine.execDup2r s
  | .ovr2r => Sys2Proof.Machine.execOvr2r s
  | .equ2r => Sys2Proof.Machine.execEqu2r s
  | .neq2r => Sys2Proof.Machine.execNeq2r s
  | .gth2r => Sys2Proof.Machine.execGth2r s
  | .lth2r => Sys2Proof.Machine.execLth2r s
  | .jmp2r => Sys2Proof.Machine.execJmp2r s
  | .jcn2r => Sys2Proof.Machine.execJcn2r s
  | .jsr2r => Sys2Proof.Machine.execJsr2r s
  | .sth2r => Sys2Proof.Machine.execSth2r s
  | .ldz2r => Sys2Proof.Machine.execLdz2r s
  | .stz2r => Sys2Proof.Machine.execStz2r s
  | .ldr2r => Sys2Proof.Machine.execLdr2r s
  | .str2r => Sys2Proof.Machine.execStr2r s
  | .lda2r => Sys2Proof.Machine.execLda2r s
  | .sta2r => Sys2Proof.Machine.execSta2r s
  | .dei2r => Sys2Proof.Machine.execDei2r s
  | .deo2r => Sys2Proof.Machine.execDeo2r s
  | .add2r => Sys2Proof.Machine.execAdd2r s
  | .sub2r => Sys2Proof.Machine.execSub2r s
  | .mul2r => Sys2Proof.Machine.execMul2r s
  | .div2r => Sys2Proof.Machine.execDiv2r s
  | .and2r => Sys2Proof.Machine.execAnd2r s
  | .or2r => Sys2Proof.Machine.execOr2r s
  | .xor2r => Sys2Proof.Machine.execXor2r s
  | .sft2r => Sys2Proof.Machine.execSft2r s
  | .lit v => Sys2Proof.Machine.execLit v s
  | .inck => Sys2Proof.Machine.execInck s
  | .popk => Sys2Proof.Machine.execPopk s
  | .nipk => Sys2Proof.Machine.execNipk s
  | .swpk => Sys2Proof.Machine.execSwpk s
  | .rotk => Sys2Proof.Machine.execRotk s
  | .dupk => Sys2Proof.Machine.execDupk s
  | .ovrk => Sys2Proof.Machine.execOvrk s
  | .equk => Sys2Proof.Machine.execEquk s
  | .neqk => Sys2Proof.Machine.execNeqk s
  | .gthk => Sys2Proof.Machine.execGthk s
  | .lthk => Sys2Proof.Machine.execLthk s
  | .jmpk => Sys2Proof.Machine.execJmpk s
  | .jcnk => Sys2Proof.Machine.execJcnk s
  | .jsrk => Sys2Proof.Machine.execJsrk s
  | .sthk => Sys2Proof.Machine.execSthk s
  | .ldzk => Sys2Proof.Machine.execLdzk s
  | .stzk => Sys2Proof.Machine.execStzk s
  | .ldrk => Sys2Proof.Machine.execLdrk s
  | .strk => Sys2Proof.Machine.execStrk s
  | .ldak => Sys2Proof.Machine.execLdak s
  | .stak => Sys2Proof.Machine.execStak s
  | .deik => Sys2Proof.Machine.execDeik s
  | .deok => Sys2Proof.Machine.execDeok s
  | .addk => Sys2Proof.Machine.execAddk s
  | .subk => Sys2Proof.Machine.execSubk s
  | .mulk => Sys2Proof.Machine.execMulk s
  | .divk => Sys2Proof.Machine.execDivk s
  | .andk => Sys2Proof.Machine.execAndk s
  | .ork => Sys2Proof.Machine.execOrk s
  | .xork => Sys2Proof.Machine.execXork s
  | .sftk => Sys2Proof.Machine.execSftk s
  | .lit2 v => Sys2Proof.Machine.execLit2 v s
  | .inc2k => Sys2Proof.Machine.execInc2k s
  | .pop2k => Sys2Proof.Machine.execPop2k s
  | .nip2k => Sys2Proof.Machine.execNip2k s
  | .swp2k => Sys2Proof.Machine.execSwp2k s
  | .rot2k => Sys2Proof.Machine.execRot2k s
  | .dup2k => Sys2Proof.Machine.execDup2k s
  | .ovr2k => Sys2Proof.Machine.execOvr2k s
  | .equ2k => Sys2Proof.Machine.execEqu2k s
  | .neq2k => Sys2Proof.Machine.execNeq2k s
  | .gth2k => Sys2Proof.Machine.execGth2k s
  | .lth2k => Sys2Proof.Machine.execLth2k s
  | .jmp2k => Sys2Proof.Machine.execJmp2k s
  | .jcn2k => Sys2Proof.Machine.execJcn2k s
  | .jsr2k => Sys2Proof.Machine.execJsr2k s
  | .sth2k => Sys2Proof.Machine.execSth2k s
  | .ldz2k => Sys2Proof.Machine.execLdz2k s
  | .stz2k => Sys2Proof.Machine.execStz2k s
  | .ldr2k => Sys2Proof.Machine.execLdr2k s
  | .str2k => Sys2Proof.Machine.execStr2k s
  | .lda2k => Sys2Proof.Machine.execLda2k s
  | .sta2k => Sys2Proof.Machine.execSta2k s
  | .dei2k => Sys2Proof.Machine.execDei2k s
  | .deo2k => Sys2Proof.Machine.execDeo2k s
  | .add2k => Sys2Proof.Machine.execAdd2k s
  | .sub2k => Sys2Proof.Machine.execSub2k s
  | .mul2k => Sys2Proof.Machine.execMul2k s
  | .div2k => Sys2Proof.Machine.execDiv2k s
  | .and2k => Sys2Proof.Machine.execAnd2k s
  | .or2k => Sys2Proof.Machine.execOr2k s
  | .xor2k => Sys2Proof.Machine.execXor2k s
  | .sft2k => Sys2Proof.Machine.execSft2k s
  | .litr v => Sys2Proof.Machine.execLitr v s
  | .inckr => Sys2Proof.Machine.execInckr s
  | .popkr => Sys2Proof.Machine.execPopkr s
  | .nipkr => Sys2Proof.Machine.execNipkr s
  | .swpkr => Sys2Proof.Machine.execSwpkr s
  | .rotkr => Sys2Proof.Machine.execRotkr s
  | .dupkr => Sys2Proof.Machine.execDupkr s
  | .ovrkr => Sys2Proof.Machine.execOvrkr s
  | .equkr => Sys2Proof.Machine.execEqukr s
  | .neqkr => Sys2Proof.Machine.execNeqkr s
  | .gthkr => Sys2Proof.Machine.execGthkr s
  | .lthkr => Sys2Proof.Machine.execLthkr s
  | .jmpkr => Sys2Proof.Machine.execJmpkr s
  | .jcnkr => Sys2Proof.Machine.execJcnkr s
  | .jsrkr => Sys2Proof.Machine.execJsrkr s
  | .sthkr => Sys2Proof.Machine.execSthkr s
  | .ldzkr => Sys2Proof.Machine.execLdzkr s
  | .stzkr => Sys2Proof.Machine.execStzkr s
  | .ldrkr => Sys2Proof.Machine.execLdrkr s
  | .strkr => Sys2Proof.Machine.execStrkr s
  | .ldakr => Sys2Proof.Machine.execLdakr s
  | .stakr => Sys2Proof.Machine.execStakr s
  | .deikr => Sys2Proof.Machine.execDeikr s
  | .deokr => Sys2Proof.Machine.execDeokr s
  | .addkr => Sys2Proof.Machine.execAddkr s
  | .subkr => Sys2Proof.Machine.execSubkr s
  | .mulkr => Sys2Proof.Machine.execMulkr s
  | .divkr => Sys2Proof.Machine.execDivkr s
  | .andkr => Sys2Proof.Machine.execAndkr s
  | .orkr => Sys2Proof.Machine.execOrkr s
  | .xorkr => Sys2Proof.Machine.execXorkr s
  | .sftkr => Sys2Proof.Machine.execSftkr s
  | .lit2r v => Sys2Proof.Machine.execLit2r v s
  | .inc2kr => Sys2Proof.Machine.execInc2kr s
  | .pop2kr => Sys2Proof.Machine.execPop2kr s
  | .nip2kr => Sys2Proof.Machine.execNip2kr s
  | .swp2kr => Sys2Proof.Machine.execSwp2kr s
  | .rot2kr => Sys2Proof.Machine.execRot2kr s
  | .dup2kr => Sys2Proof.Machine.execDup2kr s
  | .ovr2kr => Sys2Proof.Machine.execOvr2kr s
  | .equ2kr => Sys2Proof.Machine.execEqu2kr s
  | .neq2kr => Sys2Proof.Machine.execNeq2kr s
  | .gth2kr => Sys2Proof.Machine.execGth2kr s
  | .lth2kr => Sys2Proof.Machine.execLth2kr s
  | .jmp2kr => Sys2Proof.Machine.execJmp2kr s
  | .jcn2kr => Sys2Proof.Machine.execJcn2kr s
  | .jsr2kr => Sys2Proof.Machine.execJsr2kr s
  | .sth2kr => Sys2Proof.Machine.execSth2kr s
  | .ldz2kr => Sys2Proof.Machine.execLdz2kr s
  | .stz2kr => Sys2Proof.Machine.execStz2kr s
  | .ldr2kr => Sys2Proof.Machine.execLdr2kr s
  | .str2kr => Sys2Proof.Machine.execStr2kr s
  | .lda2kr => Sys2Proof.Machine.execLda2kr s
  | .sta2kr => Sys2Proof.Machine.execSta2kr s
  | .dei2kr => Sys2Proof.Machine.execDei2kr s
  | .deo2kr => Sys2Proof.Machine.execDeo2kr s
  | .add2kr => Sys2Proof.Machine.execAdd2kr s
  | .sub2kr => Sys2Proof.Machine.execSub2kr s
  | .mul2kr => Sys2Proof.Machine.execMul2kr s
  | .div2kr => Sys2Proof.Machine.execDiv2kr s
  | .and2kr => Sys2Proof.Machine.execAnd2kr s
  | .or2kr => Sys2Proof.Machine.execOr2kr s
  | .xor2kr => Sys2Proof.Machine.execXor2kr s
  | .sft2kr => Sys2Proof.Machine.execSft2kr s

end Sys2Proof.Machine
end

