-- ==== Sys2Proof/Machine/Fetch.lean ====
section
/-! DEFINITION. Instruction fetch (10_state.md R15, 30_encoding.md R44, R51). -/

namespace Sys2Proof.Machine

/-- The bytes of the longest instruction at the pc, addresses mod 65536 (R28, R52).  An instruction reads no more of them than its
length. -/
def State.fetchBytes (s : State) : List Byte := [s.byteAt s.pc, s.byteAt (s.pc + 1), s.byteAt (s.pc + 2)]

/-- `pc <- A + 1` (R44). -/
def State.afterFetch (s : State) : State := s.setPc (s.pc + 1)

/-- Stores bytes from an address on, addresses mod 65536. -/
def State.storeBytes (s : State) (a : Short) : List Byte → State
  | [] => s
  | b :: rest => (s.setByte a b).storeBytes (a + 1) rest

/-- Stores bytes from the pc on. -/
def State.storeAtPc (s : State) (bytes : List Byte) : State := s.storeBytes s.pc bytes

end Sys2Proof.Machine
end

