-- ==== Sys2Proof/Machine/Step.lean ====
section
/-! DEFINITION. One step: fetch, decode, execute (00_scope.md R5, 30_encoding.md R44). -/

namespace Sys2Proof.Machine

/-- One step: the instruction at the pc is decoded, the pc moves past its first byte before any other action (R15, R44), and the
instruction runs. -/
def step (s : State) : Host.Outcome State Fault Refusal :=
  match decode s.fetchBytes with
  | .ok (i, _) => exec i s.afterFetch
  | .error why => .refused (.undecodable why)

/-- The state with a table word's instruction stored where `step` fetches: at the pc and the two addresses after it. -/
def State.withFetchWord (s : State) (nbits w : Nat) : State := s.storeAtPc (tableWordBytes nbits w)

end Sys2Proof.Machine
end

