-- ==== Sys2Proof/Machine/HostSide.lean ====
section
/-! DEFINITION. What the host does between steps, and the run loop (70_reset_and_hazards.md R124-R129, 60_exceptions.md R116, R119).
Nothing here happens inside a step. -/

namespace Sys2Proof.Machine

/-- Creation with given parameters ENTRY_PC, DEVICE_SLOTS and SUB8_ADDS (R7, R124); the defaults give `State.reset`. -/
def State.create (entry : Short) (slots : Vector (Option Device) 16) (sub8Adds : Bool) : State :=
  { State.reset with pc := entry, dev := slots, sub8Adds := sub8Adds }

/-- Program load: the image is copied to 0x0100 onwards and nothing else changes; an image that does not fit is refused (R125, decision
D24). -/
def State.load (s : State) (image : List Byte) : Option State :=
  if imageWf image then some (s.storeBytes Config.loadAddress image) else none

/-- Device installation: fills or empties a slot, before a run (R126). -/
def State.install (s : State) (d : BitVec 4) (x : Option Device) : State := s.setSlot d x

/-- Execution entry: the host sets the pc and nothing else (R127). -/
def State.enter (s : State) (entry : Short) : State := s.setPc entry

/-- Delivers input: the host writes the `read` and `type` ports of the Console in slot `d` (R119).  No bus event: the record holds the
calls of DEI and DEO (R94). -/
def State.deliverInput (s : State) (d : BitVec 4) (input kind : Byte) : State :=
  (s.writePort d 0x2 input).writePort d 0x7 kind

/-- The Console's callback vector: the short at port 0 (R118). -/
def State.consoleVector (s : State) (d : BitVec 4) : Short := s.readPorts d 0x0 .short

/-- Re-entry on input: the host sets the pc to the Console's vector (R119, R129). -/
def State.reenter (s : State) (d : BitVec 4) : State := s.enter (s.consoleVector d)

/-- The last byte written to the Console's `write` port (R118, R119). -/
def State.lastWrite (s : State) (d : BitVec 4) : Byte := s.readPort d 0x8

/-- The last byte written to the Console's `error` port (R118, R119). -/
def State.lastError (s : State) (d : BitVec 4) : Byte := s.readPort d 0x9

/-- The exit status the host polls: the System device's state port, 0x00 where no termination was requested (R116). -/
def State.exitStatus (s : State) (d : BitVec 4) : Byte := s.readPort d 0xF

/-- The byte writes a bus event makes at a core-local device, in order (R91). -/
def BusEvent.byteWrites (e : BusEvent) : List (BitVec 4 × Byte) :=
  match e.dir, e.width with
  | .input, _ => []
  | .output, .byte => [(e.port, loByte e.value)]
  | .output, .short => [(e.port, hiByte e.value), (e.port + 1, loByte e.value)]

/-- The ordered bytes a program wrote to one port of slot `d`: with port 8 or 9 of the Console its output or error stream (R94,
decision D23). -/
def State.streamOf (s : State) (d p : BitVec 4) : List Byte :=
  ((s.bus.filter fun e => e.slot = d).flatMap BusEvent.byteWrites).filterMap fun x => if x.1 = p then some x.2 else none

/-- How a run ended (R128): the machine's own outcome, or the host's fuel. -/
inductive RunEnd where
  | halted
  | fault (kind : FaultKind)
  | outOfFuel
  /-- The model stopped without a next state; no state makes it do so. -/
  | stopped
deriving DecidableEq, Repr

/-- The run loop: steps until one is Halted or a Fault, or until the fuel is spent; with the number of steps made (R128). -/
def State.run (s : State) : Nat → State × RunEnd × Nat
  | 0 => (s, .outOfFuel, 0)
  | n + 1 =>
    match step s with
    | .next t =>
      match t.status with
      | .halted => (t, .halted, 1)
      | .fault kind => (t, .fault kind, 1)
      | .cont => ((t.run n).1, (t.run n).2.1, (t.run n).2.2 + 1)
    | .fault _ => (s, .stopped, 0)
    | .refused _ => (s, .stopped, 0)

end Sys2Proof.Machine
end

