-- ==== Sys2Proof/Safety.lean ====
section
/-! DEFINITION. The terms in which claims are stated: the stack effect table (30_encoding.md R50), the contents of a stack as a list of
bytes, what an instruction leaves alone, and the invariant of the state. -/

namespace Sys2Proof

/-- The bytes an operation consumes from the active stack (R50). -/
def Op.consumed (op : Op) (w : Width) : Nat :=
  match op with
  | .inc | .pop | .dup | .jmp | .jsr | .sth => w.bytes
  | .nip | .swp | .ovr | .equ | .neq | .gth | .lth => 2 * w.bytes
  | .add | .sub | .mul | .div | .and | .or | .xor => 2 * w.bytes
  | .rot => 3 * w.bytes
  | .jcn | .stz | .str | .deo | .sft => w.bytes + 1
  | .ldz | .ldr | .dei => 1
  | .lda => 2
  | .sta => w.bytes + 2

/-- The bytes an operation produces on the active stack (R50). -/
def Op.produced (op : Op) (w : Width) : Nat :=
  match op with
  | .pop | .jmp | .jcn | .jsr | .sth | .stz | .str | .sta | .deo => 0
  | .equ | .neq | .gth | .lth => 1
  | .inc | .nip | .ldz | .ldr | .lda | .dei | .add | .sub | .mul | .div | .and | .or | .xor | .sft => w.bytes
  | .swp | .dup => 2 * w.bytes
  | .rot | .ovr => 3 * w.bytes

/-- 2^(8w): the number of values of a width (00_scope.md R9). -/
def Width.modulus (w : Width) : Nat := 2 ^ (8 * w.bytes)

/-- A width-w value as it lies on a stack, bottom to top: the most significant byte deeper (10_state.md R18). -/
def valueBytes : Width → Nat → List Byte
  | .byte, v => [BitVec.ofNat 8 v]
  | .short, v => [BitVec.ofNat 8 (v / 256), BitVec.ofNat 8 v]

/-- `sext_8` of a byte given as a number (R8). -/
def signedByte (b : Nat) : Int := if b < 128 then b else (b : Int) - 256

/-- The instruction byte of a form: `k*0x80 + r*0x40 + s*0x20 + base` (R48). -/
def formByte (base : Nat) (m : Mode) : Byte :=
  BitVec.ofNat 8 ((if m.keep then 0x80 else 0) + (if m.ret then 0x40 else 0) + (if m.width = .short then 0x20 else 0) + base)

end Sys2Proof

namespace Sys2Proof.Machine

/-- The invariant of the state: memory is in its one canonical form.  The pointer invariant of R17 ("`sp` always in [0,255]") is in the
type of `sp`. -/
def State.Inv (s : State) : Prop := Memory.wf s.mem = true

/-- A step that was safe: it ended in no fault (60_exceptions.md R105). -/
def State.NoFault (s : State) : Prop := ∀ kind, s.status ≠ .fault kind

/-- The bytes a stack holds, bottom to top (R16: `sp` is their number and the top byte is `dat[sp - 1]`). -/
def Stack.contents (st : Stack) : List Byte := st.dat.toList.take st.sp.toNat

/-- The contents after `( before -- after )` above `pre`: with keep the operands stay (R32, R64). -/
def effectResult (keep : Bool) (pre before after : List Byte) : List Byte :=
  pre ++ (if keep then before else []) ++ after

/-- The operands of `( before -- after )` lie on the stack above `pre`, and there is room for the result (R32). -/
def EffectReady (keep : Bool) (st : Stack) (pre before after : List Byte) : Prop :=
  st.contents = pre ++ before ∧ (effectResult keep pre before after).length ≤ 255

/-- `( before -- after )` above `pre` took place on a stack (R50), and every byte of the buffer but the produced ones is as it was. -/
def StackEffect (keep : Bool) (st st' : Stack) (pre before after : List Byte) : Prop :=
  st'.contents = effectResult keep pre before after ∧
  ∀ (j : Nat) (h : j < 256), (j + after.length < st'.sp.toNat ∨ st'.sp.toNat ≤ j) → st'.dat[j] = st.dat[j]

/-- Memory, devices, the bus record and the parameter are as they were. -/
def SameOutside (s t : State) : Prop :=
  t.mem = s.mem ∧ t.dev = s.dev ∧ t.bus = s.bus ∧ t.sub8Adds = s.sub8Adds

/-- The form with flags `m` completed with the effect `( before -- after )` on its active stack, the pc at `pc'`, and nothing else
changed: not the other stack, memory, a device or the bus record. -/
def ActiveEffect (m : Mode) (s t : State) (pre before after : List Byte) (pc' : Short) : Prop :=
  StackEffect m.keep (s.stack (activeStack m)) (t.stack (activeStack m)) pre before after ∧
  t.stack (otherStack m) = s.stack (otherStack m) ∧
  t.pc = pc' ∧ t.status = .cont ∧ SameOutside s t

/-- Every form of the operation with flags `m` whose operands are there and whose result has room completes with the effect
`( before -- after )` on the active stack, sequential flow, and nothing else changed (R50, R64). -/
def FormEffect (op : Op) (m : Mode) (before after : List Byte) : Prop :=
  ∀ (s : State) (pre : List Byte), EffectReady m.keep (s.stack (activeStack m)) pre before after →
    ∃ t, exec (.stack op m) s = .next t ∧ ActiveEffect m s t pre before after s.pc

/-- A push of `bytes` on stack `x`, the pc at `pc'`, and nothing else changed. -/
def PushEffect (x : StackSel) (s t : State) (bytes : List Byte) (pc' : Short) : Prop :=
  StackEffect false (s.stack x) (t.stack x) (s.stack x).contents [] bytes ∧
  t.stack x.other = s.stack x.other ∧
  t.pc = pc' ∧ t.status = .cont ∧ SameOutside s t

/-- The state as it is but for the pc and the outcome of the step. -/
def State.stopAt (s : State) (pc' : Short) (r : Status) : State := (s.setPc pc').setStatus r

/-- The state with the pointer of stack `x` alone moved. -/
def State.withSp (s : State) (x : StackSel) (sp : Byte) : State := s.setStack x { s.stack x with sp := sp }

/-- The pointer a capacity check computes, as an integer (R32). -/
def newPointer (sp c p : Nat) (k : Bool) : Nat := if k then sp + p else sp - c + p

/-- The `w` bytes of memory from an address on, the second address mod 65536 (R28). -/
def State.bytesAt (s : State) (a : Short) : Width → List Byte
  | .byte => [s.byteAt a]
  | .short => [s.byteAt a, s.byteAt (a + 1)]

/-- The address a pc-relative operand names: `(pc + sext_8(d)) mod 65536` (R77, R83). -/
def relativeTo (pc : Short) (d : Nat) : Short := BitVec.ofInt 16 ((pc.toNat : Int) + signedByte d)

/-- Memory after a width-w value is stored at an address: the bytes stored, and every byte outside them as before (R29). -/
def StoredAt (s t : State) (a : Short) (w : Width) (v : Nat) : Prop :=
  ∀ x : Short, t.byteAt x =
    match w with
    | .byte => if x = a then BitVec.ofNat 8 v else s.byteAt x
    | .short => if x = a then BitVec.ofNat 8 (v / 256) else if x = a + 1 then BitVec.ofNat 8 v else s.byteAt x

/-- A store completed: the operands are gone (or kept), memory holds the value, and nothing else changed. -/
def StoreEffect (m : Mode) (s t : State) (pre before : List Byte) (a : Short) (v : Nat) : Prop :=
  StackEffect m.keep (s.stack (activeStack m)) (t.stack (activeStack m)) pre before [] ∧
  t.stack (otherStack m) = s.stack (otherStack m) ∧
  StoredAt s t a m.width v ∧
  t.pc = s.pc ∧ t.status = .cont ∧ t.dev = s.dev ∧ t.bus = s.bus ∧ t.sub8Adds = s.sub8Adds

/-- What a width-w device write of `v` at port `p` puts into port `q` (45_device_io.md R91). -/
def portWritten (p : BitVec 4) (w : Width) (v : Nat) (q : BitVec 4) : Option Byte :=
  match w with
  | .byte => if q = p then some (BitVec.ofNat 8 v) else none
  | .short => if q = p then some (BitVec.ofNat 8 (v / 256)) else if q = p + 1 then some (BitVec.ofNat 8 v) else none

/-- Every slot but `d` is as it was. -/
def OtherSlotsSame (s t : State) (d : BitVec 4) : Prop := ∀ e : BitVec 4, e ≠ d → t.slot e = s.slot e

/-- The bytes a core-local device with ports `f` answers, the second port of a short mod 16 (R91). -/
def portBytes (f : BitVec 4 → Byte) (p : BitVec 4) : Width → List Byte
  | .byte => [f p]
  | .short => [f p, f (p + 1)]

/-- The same answer as a value, big-endian (R91). -/
def portValue (f : BitVec 4 → Byte) (p : BitVec 4) : Width → Short
  | .byte => zext16 (f p)
  | .short => shortOf (f p) (f (p + 1))

/-- What the System device shows at a port in state `t`: the stack pointers at 4 and 5, its storage elsewhere (R25, R115). -/
def systemByte (t : State) (r : SystemPorts) (q : BitVec 4) : Byte :=
  if q = 4 then t.ws.sp else if q = 5 then t.rs.sp else r.read q

/-- A DEI from device slot `d`, port `p` completed: the answer replaces the port byte (or is pushed above it), one call was recorded,
and nothing else changed but, perhaps, the device. -/
def InputEffect (m : Mode) (s t : State) (pre : List Byte) (p8 : Byte) (answer : List Byte) (value : Short) : Prop :=
  StackEffect m.keep (s.stack (activeStack m)) (t.stack (activeStack m)) pre [p8] answer ∧
  t.stack (otherStack m) = s.stack (otherStack m) ∧
  t.bus = s.bus ++ [⟨.input, slotOf p8, portOf p8, m.width, value⟩] ∧
  t.pc = s.pc ∧ t.status = .cont ∧ t.mem = s.mem ∧ t.sub8Adds = s.sub8Adds ∧ OtherSlotsSame s t (slotOf p8)

/-- What every DEO that reaches a device leaves: the call recorded, the buffers, memory, pc and every other slot as they were. -/
def OutputFrame (m : Mode) (s t : State) (p8 : Byte) (v : Nat) : Prop :=
  t.bus = s.bus ++ [⟨.output, slotOf p8, portOf p8, m.width, BitVec.ofNat 16 v⟩] ∧
  t.ws.dat = s.ws.dat ∧ t.rs.dat = s.rs.dat ∧
  t.pc = s.pc ∧ t.status = .cont ∧ t.mem = s.mem ∧ t.sub8Adds = s.sub8Adds ∧ OtherSlotsSame s t (slotOf p8)

/-- The pointer of stack `x` after the form with flags `m` has taken `n` bytes from its active stack (R32). -/
def poppedSp (m : Mode) (s : State) (n : Nat) (x : StackSel) : Byte :=
  if x = activeStack m ∧ m.keep = false then (s.stack x).sp - BitVec.ofNat 8 n else (s.stack x).sp

/-- Where JMP, JCN and JSR go: pc-relative in the byte form, absolute in the short form (R77, decision D4). -/
def targetOf (w : Width) (pc : Short) (t : Nat) : Short :=
  match w with
  | .byte => relativeTo pc t
  | .short => BitVec.ofNat 16 t

/-- One literal opcode: its encoding, its push on stack `x`, and its Overflow with the pc past the operand. -/
def LiteralPushes (i : Instr) (opcode : Byte) (x : StackSel) (bytes : List Byte) : Prop :=
  encode i = opcode :: bytes ∧
  ∀ s : State,
    ((s.stack x).sp.toNat + bytes.length ≤ 255 →
      ∃ t, exec i s = .next t ∧ PushEffect x s t bytes (s.pc + BitVec.ofNat 16 bytes.length)) ∧
    ((s.stack x).sp.toNat + bytes.length > 255 →
      exec i s = .next (s.stopAt (s.pc + BitVec.ofNat 16 bytes.length) (.fault .overflow)))

/-- What a device is, without its port state. -/
inductive DeviceKind where
  | system
  | console
  | host (id : Nat)
deriving DecidableEq, Repr

/-- The kind of an installed device (R21, R22). -/
def Device.kind : Device → DeviceKind
  | .system _ => .system
  | .console _ => .console
  | .host id _ => .host id

end Sys2Proof.Machine
end

