-- ==== Sys2Proof/Certificates/Slice0/Obligations.lean ====
section
/-! DEFINITION. The statements for the provers.  `Instr.stack op m` is the instruction of base operation `op` under the flags `m`, so a
statement for every `m` speaks of all eight forms of the operation (plain, `2`, `r`, `2r`, `k`, `2k`, `kr`, `2kr`).  `exec` runs from the
state whose pc is already past the instruction byte (30_encoding.md R44): where a rule writes A + 1, `s.pc` stands. -/

open Sys2Proof Sys2Proof.Machine

/-! ## Encoding -/

/-- The encoder and the decoder agree on every instruction and every operand, whatever bytes follow. Rests on D1 (base opcode numbers but
ADD's, log 12). -/
def Obligations.DecodeAfterEncodeIsIdentity : Prop :=
  ∀ (i : Instr) (rest : List Byte), decode (encode i ++ rest) = .ok (i, rest)

/-- Whatever the decoder reads, the encoder gives back, and it is one whole instruction. Rests on D1 (base opcode numbers but ADD's, log
12). -/
def Obligations.EncodeAfterDecodeIsIdentity : Prop :=
  ∀ (bytes : List Byte) (i : Instr) (rest : List Byte), decode bytes = .ok (i, rest) →
    encode i ++ rest = bytes ∧ wordsWf (encode i) = true

/-- Words of 95_test_vectors.md (Part 2; EQU is V57 of Part 3), one or more from every family, decode to the instruction they stand
for.  Base opcode numbers but ADD's are decision D1 (R48, log 12). -/
def Obligations.SampleWordsDecode : Prop :=
  decodeTableWord 8 0x00 = some .brk ∧ decodeTableWord 24 0x050020 = some (.jci 5) ∧
  decodeTableWord 24 0x3412A0 = some (.lit2 0x1234) ∧ decodeTableWord 8 0x01 = some .inc ∧
  decodeTableWord 8 0x02 = some .pop ∧ decodeTableWord 8 0x08 = some .equ ∧
  decodeTableWord 8 0x18 = some .add ∧ decodeTableWord 8 0xF8 = some .add2kr ∧
  decodeTableWord 8 0x6C = some .jmp2r ∧ decodeTableWord 8 0x6F = some .sth2r ∧ decodeTableWord 8 0x94 = some .ldak ∧
  decodeTableWord 8 0xB7 = some .deo2k ∧ decodeTableWord 8 0x3B = some .div2 ∧ decodeTableWord 8 0xFF = some .sft2kr

/-- R53: every byte begins an instruction, and the decoder takes as many bytes as the first one tells. -/
def Obligations.EveryByteDecodes : Prop :=
  ∀ (b0 b1 b2 : Byte) (rest : List Byte),
    ∃ i, decode (b0 :: b1 :: b2 :: rest) = .ok (i, (b0 :: b1 :: b2 :: rest).drop (wordLength b0))

/-- R45, R46: an immediate opcode is selected by the whole byte and reads its inline operand; any other byte is dispatched on its low
six bits and runs with the flags in bits 7 and 6. -/
def Obligations.DispatchOnByteFields : Prop :=
  (∀ (v hi lo : Byte) (rest : List Byte),
    decode (0x00 :: rest) = .ok (.brk, rest) ∧
    decode (0x20 :: hi :: lo :: rest) = .ok (.jci (hi ++ lo), rest) ∧
    decode (0x40 :: hi :: lo :: rest) = .ok (.jmi (hi ++ lo), rest) ∧
    decode (0x60 :: hi :: lo :: rest) = .ok (.jsi (hi ++ lo), rest) ∧
    decode (0x80 :: v :: rest) = .ok (.lit v, rest) ∧
    decode (0xA0 :: hi :: lo :: rest) = .ok (.lit2 (hi ++ lo), rest) ∧
    decode (0xC0 :: v :: rest) = .ok (.litr v, rest) ∧
    decode (0xE0 :: hi :: lo :: rest) = .ok (.lit2r (hi ++ lo), rest)) ∧
  ∃ f : BitVec 5 → Op, ∀ (b : Byte) (rest : List Byte), b.extractLsb' 0 5 ≠ 0 →
    decode (b :: rest) =
      .ok (.stack (f (b.extractLsb' 0 5)) ⟨b.getLsbD 7, b.getLsbD 6, if b.getLsbD 5 then .short else .byte⟩, rest)

/-! ## Whole-machine rules -/

/-- A step runs the instruction at the pc, from the state whose pc is past the instruction byte. Rests on D30 (fetch reads current
memory, log 20). -/
def Obligations.StepRunsDecodedInstruction : Prop :=
  ∀ (s : State) (i : Instr) (rest : List Byte),
    decode [s.byteAt s.pc, s.byteAt (s.pc + 1), s.byteAt (s.pc + 2)] = .ok (i, rest) →
    step s = exec i (s.setPc (s.pc + 1))

/-- From every state a step answers a next state: no encoding, address or device stops the machine. Rests on the reading that a fault or a halt is a
next state (the model's reading, log 1). -/
def Obligations.StepAlwaysAnswersNextState : Prop :=
  ∀ s : State, ∃ t, step s = .next t

/-- R107: a step ends Halted exactly where the byte at the pc is BRK. -/
def Obligations.OnlyBrkHalts : Prop :=
  ∀ s t : State, step s = .next t → (t.status = .halted ↔ s.byteAt s.pc = 0x00)

/-- What a fault leaves (R106). The pc is past the whole instruction; no stack byte, memory byte or device is written; every pointer is
unchanged, except the one a first check committed when the second check of JSR, STH or DEO faults. The pc past an inline operand is
decision D10 (R55, log 16); which pointer a second check leaves moved, how far, with which kind and not with keep, is D6 (R79, R80) and D7
(R96, log 15); that a fault is a next state is the model's reading (log 1). Rests on D6 (the active stack is checked before the other,
and a second fault leaves the first pointer change, log 15); D7 (the two checks of DEO, log 15); D8 (DEI makes one check, the device is
read after it and not called on a fault, log 15); D10 (the pc past an inline operand at a fault, log 16); that a fault or a halt is a next
state (the model's reading, log 1). -/
def Obligations.FaultLeavesStateOfPseudocode : Prop :=
  ∀ (i : Instr) (s t : State) (kind : FaultKind), exec i s = .next t → t.status = .fault kind →
    t.pc = s.pc + BitVec.ofNat 16 ((encode i).length - 1) ∧
    t.mem = s.mem ∧ t.dev = s.dev ∧ t.bus = s.bus ∧ t.sub8Adds = s.sub8Adds ∧
    t.ws.dat = s.ws.dat ∧ t.rs.dat = s.rs.dat ∧
    ((t.ws.sp = s.ws.sp ∧ t.rs.sp = s.rs.sp) ∨
      ∃ op m, i = .stack op m ∧ m.keep = false ∧
        (t.stack (otherStack m)).sp = (s.stack (otherStack m)).sp ∧
        ((op = .jsr ∨ op = .sth) ∧ kind = .overflow ∧
            (t.stack (activeStack m)).sp = (s.stack (activeStack m)).sp - BitVec.ofNat 8 m.width.bytes ∨
          op = .deo ∧ kind = .underflow ∧ (t.stack (activeStack m)).sp = (s.stack (activeStack m)).sp - 1))

/-- Memory keeps its canonical form in every step. Rests on the canonical form (the model's, log 3). -/
def Obligations.StepKeepsMemoryCanonical : Prop :=
  ∀ s t : State, s.Inv → step s = .next t → t.Inv

/-- Memory is in canonical form at creation. Rests on D14 (memory at creation, log 3); the canonical form (the model's, log 3). -/
def Obligations.ResetMemoryIsCanonical : Prop :=
  State.reset.Inv

/-- The state at creation, as the table of R26 (the spec's own decisions D14-D17, D21) gives it. Rests on D3 (byte SUB, log 2); D14
(memory at creation, log 3); D15 (stacks and status at creation, log 5); D16 (the entry pc, log 4); D17 (the device table and its
constancy, log 6); D21 (port values at creation, log 7); D23 (the event record, log 9). -/
def Obligations.ResetStateValues : Prop :=
  (∀ a : Short, State.reset.byteAt a = 0x00) ∧ State.reset.pc = 0x0100 ∧
  (∀ x : StackSel, (State.reset.stack x).sp = 0 ∧ ∀ (j : Nat) (h : j < 256), (State.reset.stack x).dat[j] = 0x00) ∧
  State.reset.status = .cont ∧ State.reset.bus = [] ∧ State.reset.sub8Adds = false ∧
  (∃ r : SystemPorts, State.reset.slot 0 = some (.system r) ∧ ∀ p : BitVec 4, r.read p = 0x00) ∧
  (∃ r : Vector Byte 16, State.reset.slot 1 = some (.console r) ∧ ∀ (p : Nat) (h : p < 16), r[p] = 0x00) ∧
  ∀ d : BitVec 4, d ≠ 0 → d ≠ 1 → State.reset.slot d = none

/-- R17: no instruction ever writes the last byte of a stack's buffer. Rests on D22 (a host device changes its own state alone, log 8).
-/
def Obligations.LastBufferByteNeverWritten : Prop :=
  ∀ s t : State, step s = .next t → t.ws.dat[255] = s.ws.dat[255] ∧ t.rs.dat[255] = s.rs.dat[255]

/-- No step installs, removes or exchanges a device: decision D17 (tagged on R21, log 6), the choice followed. Nor does one change the
parameter SUB8_ADDS (R7), a field of State by the model's choice (log 2). Rests on D17 (the device table and its constancy, log 6);
SUB8_ADDS as a field (the model's, log 2). -/
def Obligations.SlotContentsAndParameterFixed : Prop :=
  ∀ s t : State, step s = .next t →
    (∀ d : BitVec 4, (t.slot d).map Device.kind = (s.slot d).map Device.kind) ∧ t.sub8Adds = s.sub8Adds

/-- R93: only a DEI or a DEO calls a device, at most once, and what another instruction does leaves every device alone. Rests on D22 (a
host device changes its own state alone, log 8); D23 (the event record, log 9). -/
def Obligations.OnlyDeviceInstructionsReachDevices : Prop :=
  ∀ (i : Instr) (s t : State), exec i s = .next t →
    (t.dev = s.dev ∧ t.bus = s.bus) ∨
    ∃ m e, ((i = .stack .dei m ∧ e.dir = .input) ∨ (i = .stack .deo m ∧ e.dir = .output)) ∧ e.width = m.width ∧
      t.bus = s.bus ++ [e] ∧ OtherSlotsSame s t e.slot

/-- Only a form of STZ, STR or STA changes a byte of memory. Rests on D22 (a host device changes its own state alone, log 8). -/
def Obligations.OnlyStoresChangeMemory : Prop :=
  ∀ (i : Instr) (s t : State) (a : Short), exec i s = .next t → t.byteAt a ≠ s.byteAt a →
    ∃ m, i = .stack .stz m ∨ i = .stack .str m ∨ i = .stack .sta m

/-- R20, R94: neither the outcome of the previous step nor the bus record is read by anything: with any of both, a step does the same and
adds the same events, so a step after a halt or a fault goes on like any other (decision D12). Rests on D12 (no outcome is latched, log
16); D22 (a host device changes its own state alone, log 8); D23 (the event record, log 9). -/
def Obligations.StatusAndBusRecordAreNeverRead : Prop :=
  ∀ s : State, ∃ (t : State) (new : List BusEvent), ∀ (r : Status) (b : List BusEvent),
    step { s with status := r, bus := b } = .next { t with bus := b ++ new }

/-! ## Capacity checks -/

/-- R32: the capacity check, in all three outcomes, and that it changes only the pointer. -/
def Obligations.ReserveChecksAndCommitsPointer : Prop :=
  ∀ (st : Stack) (c p : Nat) (k : Bool),
    (c > st.sp.toNat → st.reserve c p k = .error .underflow) ∧
    (c ≤ st.sp.toNat → newPointer st.sp.toNat c p k > 255 → st.reserve c p k = .error .overflow) ∧
    (c ≤ st.sp.toNat → newPointer st.sp.toNat c p k ≤ 255 →
      ∃ st', st.reserve c p k = .ok st' ∧ st'.sp.toNat = newPointer st.sp.toNat c p k ∧ st'.dat = st.dat)

/-- Every operation but DIV and DEO: too few bytes on the active stack raise Underflow, keep or not, and nothing else happens (the counts
are those of R50). For JSR and STH that this holds with the other stack full is decision D6, for DEI that the device is not called is
decision D8 (both log 15). Rests on D2 (operand counts and order, log 13); D6 (the active stack is checked before the other, and a second
fault leaves the first pointer change, log 15); D8 (DEI makes one check, the device is read after it and not called on a fault, log 15);
that a fault or a halt is a next state (the model's reading, log 1). -/
def Obligations.TooFewBytesRaiseUnderflow : Prop :=
  ∀ (op : Op) (m : Mode) (s : State), op ≠ .div → op ≠ .deo →
    (s.stack (activeStack m)).sp.toNat < op.consumed m.width →
    exec (.stack op m) s = .next (s.stopAt s.pc (.fault .underflow))

/-- Every operation but DIV and DEO: a pointer that would pass 255 on the active stack raises Overflow, and nothing else happens. For DEI
the one check, the pointer left as it was and no device call are decision D8 (log 15). Rests on D2 (operand counts and order, log 13); D8
(DEI makes one check, the device is read after it and not called on a fault, log 15); that a fault or a halt is a next state (the model's
reading, log 1). -/
def Obligations.TooManyBytesRaiseOverflow : Prop :=
  ∀ (op : Op) (m : Mode) (s : State), op ≠ .div → op ≠ .deo →
    op.consumed m.width ≤ (s.stack (activeStack m)).sp.toNat →
    newPointer (s.stack (activeStack m)).sp.toNat (op.consumed m.width) (op.produced m.width) m.keep > 255 →
    exec (.stack op m) s = .next (s.stopAt s.pc (.fault .overflow))

/-! ## Immediate opcodes -/

/-- BRK (R56): Halted, and nothing else changes; the pc stays past the byte (decision D11). Rests on D11 (the pc after BRK, log 16); that
a fault or a halt is a next state (the model's reading, log 1). -/
def Obligations.BrkHaltsInPlace : Prop :=
  ∀ s : State, exec .brk s = .next (s.stopAt s.pc .halted)

/-- JCI (R57): encoding, the condition popped from ws, the jump, and the fault, whose pc past the operand is decision D10 (R55, log 16).
Rests on D10 (the pc past an inline operand at a fault, log 16); that a fault or a halt is a next state (the model's reading, log 1). -/
def Obligations.JciJumpsIfTopNonZero : Prop :=
  ∀ d : Short, encode (.jci d) = [0x20, hiByte d, loByte d] ∧
    (∀ (s : State) (pre : List Byte) (f : Byte), s.ws.contents = pre ++ [f] →
      ∃ t, exec (.jci d) s = .next t ∧ StackEffect false s.ws t.ws pre [f] [] ∧ t.rs = s.rs ∧
        t.pc = (if f ≠ 0 then BitVec.ofInt 16 ((s.pc.toNat : Int) + 2 + d.toInt) else s.pc + 2) ∧ t.status = .cont ∧
        SameOutside s t) ∧
    (∀ s : State, s.ws.sp = 0 → exec (.jci d) s = .next (s.stopAt (s.pc + 2) (.fault .underflow)))

/-- JMI (R58): encoding and the jump; nothing else changes. -/
def Obligations.JmiJumps : Prop :=
  ∀ d : Short, encode (.jmi d) = [0x40, hiByte d, loByte d] ∧
    ∀ s : State, exec (.jmi d) s = .next (s.stopAt (BitVec.ofInt 16 ((s.pc.toNat : Int) + 2 + d.toInt)) .cont)

/-- JSI (R59): encoding, the return address pushed on rs, the jump, and the fault, whose pc past the operand is decision D10 (R55, log
16). Rests on D10 (the pc past an inline operand at a fault, log 16); that a fault or a halt is a next state (the model's reading, log
1). -/
def Obligations.JsiCallsThroughRs : Prop :=
  ∀ d : Short, encode (.jsi d) = [0x60, hiByte d, loByte d] ∧
    (∀ s : State, s.rs.sp.toNat ≤ 253 →
      ∃ t, exec (.jsi d) s = .next t ∧
        PushEffect .rs s t (valueBytes .short (s.pc + 2).toNat) (BitVec.ofInt 16 ((s.pc.toNat : Int) + 2 + d.toInt))) ∧
    (∀ s : State, s.rs.sp.toNat > 253 → exec (.jsi d) s = .next (s.stopAt (s.pc + 2) (.fault .overflow)))

/-- LIT, LITr (R60, R62), LIT2, LIT2r (R61, R63). The pc past the operand at an Overflow is decision D10 (R55, log 16). Rests on D10 (the
pc past an inline operand at a fault, log 16); that a fault or a halt is a next state (the model's reading, log 1). -/
def Obligations.LiteralsPushInlineOperand : Prop :=
  (∀ v : Byte, LiteralPushes (.lit v) 0x80 .ws [v] ∧ LiteralPushes (.litr v) 0xC0 .rs [v]) ∧
  (∀ v : Short, LiteralPushes (.lit2 v) 0xA0 .ws [hiByte v, loByte v] ∧ LiteralPushes (.lit2r v) 0xE0 .rs [hiByte v, loByte v])

/-! ## Stack shuffles -/

/-- INC (R65): `( a -- a+1 )` mod 2^(8w). Rests on D2 (operand counts and order, log 13). -/
def Obligations.IncAddsOne : Prop :=
  ∀ (m : Mode) (a : Nat), a < m.width.modulus →
    FormEffect .inc m (valueBytes m.width a) (valueBytes m.width ((a + 1) % m.width.modulus))

/-- POP (R66): `( a -- )`. Rests on D2 (operand counts and order, log 13). -/
def Obligations.PopDiscardsTop : Prop :=
  ∀ (m : Mode) (a : Nat), a < m.width.modulus → FormEffect .pop m (valueBytes m.width a) []

/-- NIP (R67): `( a b -- b )`. Rests on D2 (operand counts and order, log 13); D13 (operands are read before results are written, log
17). -/
def Obligations.NipRemovesSecond : Prop :=
  ∀ (m : Mode) (a b : Nat), a < m.width.modulus → b < m.width.modulus →
    FormEffect .nip m (valueBytes m.width a ++ valueBytes m.width b) (valueBytes m.width b)

/-- SWP (R68): `( a b -- b a )`. Rests on D2 (operand counts and order, log 13); D13 (operands are read before results are written, log
17). -/
def Obligations.SwpExchangesTopTwo : Prop :=
  ∀ (m : Mode) (a b : Nat), a < m.width.modulus → b < m.width.modulus →
    FormEffect .swp m (valueBytes m.width a ++ valueBytes m.width b) (valueBytes m.width b ++ valueBytes m.width a)

/-- ROT (R69): `( a b c -- b c a )`. Rests on D2 (operand counts and order, log 13); D13 (operands are read before results are written,
log 17). -/
def Obligations.RotBringsThirdToTop : Prop :=
  ∀ (m : Mode) (a b c : Nat), a < m.width.modulus → b < m.width.modulus → c < m.width.modulus →
    FormEffect .rot m (valueBytes m.width a ++ valueBytes m.width b ++ valueBytes m.width c)
      (valueBytes m.width b ++ valueBytes m.width c ++ valueBytes m.width a)

/-- DUP (R70): `( a -- a a )`. Rests on D2 (operand counts and order, log 13); D13 (operands are read before results are written, log
17). -/
def Obligations.DupCopiesTop : Prop :=
  ∀ (m : Mode) (a : Nat), a < m.width.modulus →
    FormEffect .dup m (valueBytes m.width a) (valueBytes m.width a ++ valueBytes m.width a)

/-- OVR (R71): `( a b -- a b a )`. Rests on D2 (operand counts and order, log 13); D13 (operands are read before results are written, log
17). -/
def Obligations.OvrCopiesSecond : Prop :=
  ∀ (m : Mode) (a b : Nat), a < m.width.modulus → b < m.width.modulus →
    FormEffect .ovr m (valueBytes m.width a ++ valueBytes m.width b)
      (valueBytes m.width a ++ valueBytes m.width b ++ valueBytes m.width a)

/-! ## Comparisons -/

/-- EQU, NEQ (R73, R74): one byte 0x01 or 0x00 in both widths (R72). Rests on D2 (operand counts and order, log 13). -/
def Obligations.EquNeqPushEquality : Prop :=
  ∀ (m : Mode) (a b : Nat), a < m.width.modulus → b < m.width.modulus →
    FormEffect .equ m (valueBytes m.width a ++ valueBytes m.width b) [if a = b then 0x01 else 0x00] ∧
    FormEffect .neq m (valueBytes m.width a ++ valueBytes m.width b) [if a ≠ b then 0x01 else 0x00]

/-- GTH, LTH (R75, R76): unsigned, the deeper operand on the left (decision D2). Rests on D2 (operand counts and order, log 13). -/
def Obligations.GthLthPushUnsignedOrder : Prop :=
  ∀ (m : Mode) (a b : Nat), a < m.width.modulus → b < m.width.modulus →
    FormEffect .gth m (valueBytes m.width a ++ valueBytes m.width b) [if a > b then 0x01 else 0x00] ∧
    FormEffect .lth m (valueBytes m.width a ++ valueBytes m.width b) [if a < b then 0x01 else 0x00]

/-! ## Control transfer and stash -/

/-- JMP (R77). Rests on D2 (operand counts and order, log 13); D4 (absolute short targets, log 14). -/
def Obligations.JmpGoesToTarget : Prop :=
  ∀ (m : Mode) (a : Nat) (s : State) (pre : List Byte), a < m.width.modulus →
    EffectReady m.keep (s.stack (activeStack m)) pre (valueBytes m.width a) [] →
    ∃ t, exec (.stack .jmp m) s = .next t ∧
      ActiveEffect m s t pre (valueBytes m.width a) [] (targetOf m.width s.pc a)

/-- JCN (R78): the byte below the target decides; both are consumed either way. Rests on D2 (operand counts and order, log 13); D4
(absolute short targets, log 14). -/
def Obligations.JcnGoesToTargetIfNonZero : Prop :=
  ∀ (m : Mode) (f : Byte) (a : Nat) (s : State) (pre : List Byte), a < m.width.modulus →
    EffectReady m.keep (s.stack (activeStack m)) pre (f :: valueBytes m.width a) [] →
    ∃ t, exec (.stack .jcn m) s = .next t ∧
      ActiveEffect m s t pre (f :: valueBytes m.width a) [] (if f ≠ 0 then targetOf m.width s.pc a else s.pc)

/-- JSR (R79): the target is taken from the active stack, the return address is pushed on the other stack (decision D5). Rests on D2
(operand counts and order, log 13); D4 (absolute short targets, log 14); D5 (JSR pushes on the other stack, log 15). -/
def Obligations.JsrPushesReturnOnOtherStack : Prop :=
  ∀ (m : Mode) (a : Nat) (s : State) (pre : List Byte), a < m.width.modulus →
    EffectReady m.keep (s.stack (activeStack m)) pre (valueBytes m.width a) [] →
    (s.stack (otherStack m)).sp.toNat ≤ 253 →
    ∃ t, exec (.stack .jsr m) s = .next t ∧
      StackEffect m.keep (s.stack (activeStack m)) (t.stack (activeStack m)) pre (valueBytes m.width a) [] ∧
      StackEffect false (s.stack (otherStack m)) (t.stack (otherStack m)) (s.stack (otherStack m)).contents []
        (valueBytes .short s.pc.toNat) ∧
      t.pc = targetOf m.width s.pc a ∧ t.status = .cont ∧ SameOutside s t

/-- STH (R80): the top item goes to the other stack. Rests on D2 (operand counts and order, log 13). -/
def Obligations.SthMovesTopToOtherStack : Prop :=
  ∀ (m : Mode) (a : Nat) (s : State) (pre : List Byte), a < m.width.modulus →
    EffectReady m.keep (s.stack (activeStack m)) pre (valueBytes m.width a) [] →
    (s.stack (otherStack m)).sp.toNat + m.width.bytes ≤ 255 →
    ∃ t, exec (.stack .sth m) s = .next t ∧
      StackEffect m.keep (s.stack (activeStack m)) (t.stack (activeStack m)) pre (valueBytes m.width a) [] ∧
      StackEffect false (s.stack (otherStack m)) (t.stack (otherStack m)) (s.stack (otherStack m)).contents []
        (valueBytes m.width a) ∧
      t.pc = s.pc ∧ t.status = .cont ∧ SameOutside s t

/-- JSR and STH on a full other stack: Overflow, the active stack's pointer already lowered unless keep, nothing else changed, no jump
(decision D6). Rests on D2 (operand counts and order, log 13); D6 (the active stack is checked before the other, and a second fault
leaves the first pointer change, log 15); that a fault or a halt is a next state (the model's reading, log 1). -/
def Obligations.SecondCheckOfJsrAndSthOverflows : Prop :=
  ∀ (m : Mode) (s : State), m.width.bytes ≤ (s.stack (activeStack m)).sp.toNat →
    ((s.stack (otherStack m)).sp.toNat > 253 →
      exec (.stack .jsr m) s =
        .next ((s.withSp (activeStack m) (poppedSp m s m.width.bytes (activeStack m))).stopAt s.pc (.fault .overflow))) ∧
    ((s.stack (otherStack m)).sp.toNat + m.width.bytes > 255 →
      exec (.stack .sth m) s =
        .next ((s.withSp (activeStack m) (poppedSp m s m.width.bytes (activeStack m))).stopAt s.pc (.fault .overflow)))

/-! ## Loads and stores -/

/-- LDZ (R81): from the zero page; a short at 0xFF goes on at 0x0100 (decision D25). Rests on D2 (operand counts and order, log 13); D25
(a zero-page short at 0xFF, log 20). -/
def Obligations.LdzPushesZeroPageBytes : Prop :=
  ∀ (m : Mode) (a : Byte) (s : State) (pre : List Byte),
    EffectReady m.keep (s.stack (activeStack m)) pre [a] (s.bytesAt (BitVec.ofNat 16 a.toNat) m.width) →
    ∃ t, exec (.stack .ldz m) s = .next t ∧
      ActiveEffect m s t pre [a] (s.bytesAt (BitVec.ofNat 16 a.toNat) m.width) s.pc

/-- LDR (R83): relative to the pc after decode. Rests on D2 (operand counts and order, log 13). -/
def Obligations.LdrPushesRelativeBytes : Prop :=
  ∀ (m : Mode) (d : Byte) (s : State) (pre : List Byte),
    EffectReady m.keep (s.stack (activeStack m)) pre [d] (s.bytesAt (relativeTo s.pc d.toNat) m.width) →
    ∃ t, exec (.stack .ldr m) s = .next t ∧
      ActiveEffect m s t pre [d] (s.bytesAt (relativeTo s.pc d.toNat) m.width) s.pc

/-- LDA (R85): absolute, the second byte mod 65536. Rests on D2 (operand counts and order, log 13). -/
def Obligations.LdaPushesAbsoluteBytes : Prop :=
  ∀ (m : Mode) (a : Short) (s : State) (pre : List Byte),
    EffectReady m.keep (s.stack (activeStack m)) pre (valueBytes .short a.toNat) (s.bytesAt a m.width) →
    ∃ t, exec (.stack .lda m) s = .next t ∧
      ActiveEffect m s t pre (valueBytes .short a.toNat) (s.bytesAt a m.width) s.pc

/-- STZ (R82): to the zero page. `zeroPageAddr` is the meaning's own address function. Rests on D2 (operand counts and order, log 13);
D25 (a zero-page short at 0xFF, log 20). -/
def Obligations.StzStoresToZeroPage : Prop :=
  ∀ (m : Mode) (a : Byte) (v : Nat) (s : State) (pre : List Byte), s.Inv → v < m.width.modulus →
    EffectReady m.keep (s.stack (activeStack m)) pre (valueBytes m.width v ++ [a]) [] →
    ∃ t, exec (.stack .stz m) s = .next t ∧
      zeroPageAddr a = BitVec.ofNat 16 a.toNat ∧ StoreEffect m s t pre (valueBytes m.width v ++ [a]) (zeroPageAddr a) v

/-- STR (R84): relative to the pc after decode. `State.relativeAddr` is the meaning's own address function. Rests on D2 (operand counts
and order, log 13). -/
def Obligations.StrStoresRelative : Prop :=
  ∀ (m : Mode) (d : Byte) (v : Nat) (s : State) (pre : List Byte), s.Inv → v < m.width.modulus →
    EffectReady m.keep (s.stack (activeStack m)) pre (valueBytes m.width v ++ [d]) [] →
    ∃ t, exec (.stack .str m) s = .next t ∧
      s.relativeAddr d = relativeTo s.pc d.toNat ∧ StoreEffect m s t pre (valueBytes m.width v ++ [d]) (s.relativeAddr d) v

/-- STA (R86): absolute, the second byte mod 65536. Rests on D2 (operand counts and order, log 13). -/
def Obligations.StaStoresAbsolute : Prop :=
  ∀ (m : Mode) (a : Short) (v : Nat) (s : State) (pre : List Byte), s.Inv → v < m.width.modulus →
    EffectReady m.keep (s.stack (activeStack m)) pre (valueBytes m.width v ++ valueBytes .short a.toNat) [] →
    ∃ t, exec (.stack .sta m) s = .next t ∧
      StoreEffect m s t pre (valueBytes m.width v ++ valueBytes .short a.toNat) a v

/-! ## Device input and output -/

/-- DEI and DEO at an empty slot: 0 is read, the value is discarded, no event, no fault (R89, R90, R95, R96). Rests on D2 (operand counts
and order, log 13); D7 (the two checks of DEO, log 15); D8 (DEI makes one check, the device is read after it and not called on a fault,
log 15); D23 (the event record, log 9). -/
def Obligations.EmptySlotReadsZeroAndDiscards : Prop :=
  ∀ (m : Mode) (p8 : Byte) (s : State) (pre : List Byte), s.slot (p8.extractLsb' 4 4) = none →
    (EffectReady m.keep (s.stack (activeStack m)) pre [p8] (valueBytes m.width 0) →
      ∃ t, exec (.stack .dei m) s = .next t ∧ ActiveEffect m s t pre [p8] (valueBytes m.width 0) s.pc) ∧
    (∀ v : Nat, v < m.width.modulus →
      EffectReady m.keep (s.stack (activeStack m)) pre (valueBytes m.width v ++ [p8]) [] →
      ∃ t, exec (.stack .deo m) s = .next t ∧ ActiveEffect m s t pre (valueBytes m.width v ++ [p8]) [] s.pc)

/-- DEI from the Console: its ports are inert storage, a short takes the next port mod 16 (R91, R92, R95, R118, decision D20). Rests on D2
(operand counts and order, log 13); D8 (DEI makes one check, the device is read after it and not called on a fault, log 15); D19 (Console
port numbers, all storage, log 18); D20 (a short takes the next port, port 0 after port 15, log 19); D23 (the event record, log 9). -/
def Obligations.DeiReadsConsolePorts : Prop :=
  ∀ (m : Mode) (p8 : Byte) (s : State) (pre : List Byte) (r : Vector Byte 16),
    s.slot (slotOf p8) = some (.console r) →
    EffectReady m.keep (s.stack (activeStack m)) pre [p8] (portBytes (fun q => r[q.toNat]'q.isLt) (portOf p8) m.width) →
    ∃ t, exec (.stack .dei m) s = .next t ∧ t.dev = s.dev ∧
      InputEffect m s t pre p8 (portBytes (fun q => r[q.toNat]'q.isLt) (portOf p8) m.width)
        (portValue (fun q => r[q.toNat]'q.isLt) (portOf p8) m.width)

/-- DEI from the System device: ports 4 and 5 show the stack pointers as the capacity check left them, which is as the instruction leaves
them; the others are storage (R25, R95, R115, decision D8). DEI2 at port 15 takes its second byte from port 0 (decision D20, log 19), and
the one event recorded is decision D23 (log 9). Rests on D2 (operand counts and order, log 13); D8 (DEI makes one check, the device is
read after it and not called on a fault, log 15); D18 (System port numbers, all but 4 and 5 storage, log 18); D20 (a short takes the next
port, port 0 after port 15, log 19); D23 (the event record, log 9). -/
def Obligations.DeiReadsSystemPorts : Prop :=
  ∀ (m : Mode) (p8 : Byte) (s : State) (pre : List Byte) (r : SystemPorts),
    s.slot (slotOf p8) = some (.system r) →
    EffectReady m.keep (s.stack (activeStack m)) pre [p8] (valueBytes m.width 0) →
    ∃ t, exec (.stack .dei m) s = .next t ∧ t.dev = s.dev ∧
      InputEffect m s t pre p8 (portBytes (systemByte t r) (portOf p8) m.width)
        (portValue (systemByte t r) (portOf p8) m.width)

/-- DEI and DEO at a host device: exactly one call of its function, whose answer is pushed, and only that device's state changes (R88,
R89, R90, R93, decision D22). The function is given the stack pointers as the instruction's checks left them (R88, decisions D7, D8),
which is as the instruction leaves them: a host device moves none (D22). Rests on D2 (operand counts and order, log 13); D7 (the two
checks of DEO, log 15); D8 (DEI makes one check, the device is read after it and not called on a fault, log 15); D22 (a host device
changes its own state alone, log 8); D23 (the event record, log 9). -/
def Obligations.HostDeviceIsCalledOnce : Prop :=
  ∀ (m : Mode) (p8 : Byte) (s : State) (pre : List Byte) (id : Nat) (st : HostState),
    s.slot (slotOf p8) = some (.host id st) →
    (EffectReady m.keep (s.stack (activeStack m)) pre [p8] (valueBytes m.width 0) →
      ∃ t, exec (.stack .dei m) s = .next t ∧
        t.slot (slotOf p8) = some (.host id (hostRead id st t.pointers (portOf p8) m.width).2) ∧
        InputEffect m s t pre p8 (valueBytes m.width (hostRead id st t.pointers (portOf p8) m.width).1.toNat)
          (hostRead id st t.pointers (portOf p8) m.width).1) ∧
    (∀ v : Nat, v < m.width.modulus →
      EffectReady m.keep (s.stack (activeStack m)) pre (valueBytes m.width v ++ [p8]) [] →
      ∃ t, exec (.stack .deo m) s = .next t ∧
        t.slot (slotOf p8) = some (.host id (hostWrite id st t.pointers (portOf p8) m.width (BitVec.ofNat 16 v))) ∧
        StackEffect m.keep (s.stack (activeStack m)) (t.stack (activeStack m)) pre (valueBytes m.width v ++ [p8]) [] ∧
        t.stack (otherStack m) = s.stack (otherStack m) ∧ OutputFrame m s t p8 v)

/-- DEO to the Console: the written ports hold the value, the others what they held (R91, R92, R96, R118, decision D20). Rests on D2
(operand counts and order, log 13); D7 (the two checks of DEO, log 15); D19 (Console port numbers, all storage, log 18); D20 (a short
takes the next port, port 0 after port 15, log 19); D23 (the event record, log 9). -/
def Obligations.DeoWritesConsolePorts : Prop :=
  ∀ (m : Mode) (p8 : Byte) (v : Nat) (s : State) (pre : List Byte) (r : Vector Byte 16),
    s.slot (slotOf p8) = some (.console r) → v < m.width.modulus →
    EffectReady m.keep (s.stack (activeStack m)) pre (valueBytes m.width v ++ [p8]) [] →
    ∃ t r', exec (.stack .deo m) s = .next t ∧ t.slot (slotOf p8) = some (.console r') ∧
      (∀ q : BitVec 4, r'[q.toNat]'q.isLt = (portWritten (portOf p8) m.width v q).getD (r[q.toNat]'q.isLt)) ∧
      StackEffect m.keep (s.stack (activeStack m)) (t.stack (activeStack m)) pre (valueBytes m.width v ++ [p8]) [] ∧
      t.stack (otherStack m) = s.stack (otherStack m) ∧ OutputFrame m s t p8 v

/-- DEO to the System device: storage ports hold the value; a byte written to port 4 or 5 is the final value of that stack pointer, and no
buffer byte changes (R25, R91, R92, R96, R115). DEO2 at port 15 writes its second byte to port 0 (decision D20, log 19), and the one event
recorded is decision D23 (log 9). Rests on D2 (operand counts and order, log 13); D7 (the two checks of DEO, log 15); D18 (System port
numbers, all but 4 and 5 storage, log 18); D20 (a short takes the next port, port 0 after port 15, log 19); D23 (the event record, log 9).
-/
def Obligations.DeoWritesSystemPortsAndPointers : Prop :=
  ∀ (m : Mode) (p8 : Byte) (v : Nat) (s : State) (pre : List Byte) (r : SystemPorts),
    s.slot (slotOf p8) = some (.system r) → v < m.width.modulus →
    EffectReady m.keep (s.stack (activeStack m)) pre (valueBytes m.width v ++ [p8]) [] →
    ∃ t r', exec (.stack .deo m) s = .next t ∧ t.slot (slotOf p8) = some (.system r') ∧
      (∀ q : BitVec 4, q ≠ 4 → q ≠ 5 → r'.read q = (portWritten (portOf p8) m.width v q).getD (r.read q)) ∧
      t.ws.sp = (portWritten (portOf p8) m.width v 4).getD (poppedSp m s (1 + m.width.bytes) .ws) ∧
      t.rs.sp = (portWritten (portOf p8) m.width v 5).getD (poppedSp m s (1 + m.width.bytes) .rs) ∧
      OutputFrame m s t p8 v

/-- The two checks of DEO (R96, decision D7): no port byte; a port byte but too little below it, where the first check's pointer change
stays unless keep. Rests on D2 (operand counts and order, log 13); D7 (the two checks of DEO, log 15); that a fault or a halt is a next
state (the model's reading, log 1). -/
def Obligations.DeoChecksTwice : Prop :=
  ∀ (m : Mode) (s : State),
    ((s.stack (activeStack m)).sp = 0 → exec (.stack .deo m) s = .next (s.stopAt s.pc (.fault .underflow))) ∧
    (1 ≤ (s.stack (activeStack m)).sp.toNat → (s.stack (activeStack m)).sp.toNat < 1 + m.width.bytes →
      exec (.stack .deo m) s =
        .next ((s.withSp (activeStack m) (poppedSp m s 1 (activeStack m))).stopAt s.pc (.fault .underflow)))

/-- R117: a short written to the System device's metadata port is read back, as a short and as its two bytes. Rests on D18 (System port
numbers, all but 4 and 5 storage, log 18). -/
def Obligations.MetadataRoundTrip : Prop :=
  ∀ (s : State) (d : BitVec 4) (r : SystemPorts) (v : Short), s.slot d = some (.system r) →
    ((s.devWrite d 6 .short v).devRead d 6 .short).1 = v ∧
    ((s.devWrite d 6 .short v).devRead d 6 .byte).1 = zext16 (hiByte v) ∧
    ((s.devWrite d 6 .short v).devRead d 7 .byte).1 = zext16 (loByte v)

/-! ## Arithmetic -/

/-- ADD (R97): encoding, sum mod 2^(8w), and its two faults. The counts 2w consumed and w produced behind the effect and the faults are
decision D2 (R50, log 13). Rests on D2 (operand counts and order, log 13); that a fault or a halt is a next state (the model's reading,
log 1). -/
def Obligations.AddPushesSum : Prop :=
  (∀ m : Mode, encode (.stack .add m) = [formByte 0x18 m]) ∧
  (∀ (m : Mode) (a b : Nat), a < m.width.modulus → b < m.width.modulus →
    FormEffect .add m (valueBytes m.width a ++ valueBytes m.width b) (valueBytes m.width ((a + b) % m.width.modulus))) ∧
  (∀ (m : Mode) (s : State), (s.stack (activeStack m)).sp.toNat < 2 * m.width.bytes →
    exec (.stack .add m) s = .next (s.stopAt s.pc (.fault .underflow))) ∧
  (∀ (m : Mode) (s : State), m.keep = true → 2 * m.width.bytes ≤ (s.stack (activeStack m)).sp.toNat →
    (s.stack (activeStack m)).sp.toNat + m.width.bytes > 255 →
    exec (.stack .add m) s = .next (s.stopAt s.pc (.fault .overflow)))

/-- SUB (R98): difference mod 2^(8w); the byte form gives the sum where SUB8_ADDS is set (decision D3), whatever its value elsewhere.
Rests on D2 (operand counts and order, log 13); D3 (byte SUB, log 2). -/
def Obligations.SubPushesDifference : Prop :=
  ∀ (m : Mode) (a b : Nat) (s : State) (pre after : List Byte), a < m.width.modulus → b < m.width.modulus →
    after = valueBytes m.width
      (if m.width = .byte ∧ s.sub8Adds = true then (a + b) % 256
        else (((a : Int) - b) % (m.width.modulus : Int)).toNat) →
    EffectReady m.keep (s.stack (activeStack m)) pre (valueBytes m.width a ++ valueBytes m.width b) after →
    ∃ t, exec (.stack .sub m) s = .next t ∧
      ActiveEffect m s t pre (valueBytes m.width a ++ valueBytes m.width b) after s.pc

/-- MUL (R99): product mod 2^(8w). Rests on D2 (operand counts and order, log 13). -/
def Obligations.MulPushesProduct : Prop :=
  ∀ (m : Mode) (a b : Nat), a < m.width.modulus → b < m.width.modulus →
    FormEffect .mul m (valueBytes m.width a ++ valueBytes m.width b) (valueBytes m.width ((a * b) % m.width.modulus))

/-- DIV (R100): unsigned floor division by a non-zero divisor. Rests on D2 (operand counts and order, log 13). -/
def Obligations.DivPushesQuotient : Prop :=
  ∀ (m : Mode) (a b : Nat), a < m.width.modulus → b < m.width.modulus → b ≠ 0 →
    FormEffect .div m (valueBytes m.width a ++ valueBytes m.width b) (valueBytes m.width (a / b))

/-- DIV's faults and their order (R100, R109, decision D9): missing divisor, zero divisor (even with no dividend or no room), missing
dividend, no room. Each leaves everything as it was. That the top operand is the divisor, and the counts behind Underflow and Overflow,
are decision D2 (log 13). Rests on D2 (operand counts and order, log 13); D9 (the order of DIV's faults, log 15); that a fault or a halt
is a next state (the model's reading, log 1). -/
def Obligations.DivFaultsInOrder : Prop :=
  ∀ (m : Mode) (s : State),
    ((s.stack (activeStack m)).sp.toNat < m.width.bytes →
      exec (.stack .div m) s = .next (s.stopAt s.pc (.fault .underflow))) ∧
    (∀ pre : List Byte, (s.stack (activeStack m)).contents = pre ++ valueBytes m.width 0 →
      exec (.stack .div m) s = .next (s.stopAt s.pc (.fault .zeroDiv))) ∧
    (∀ (pre : List Byte) (b : Nat), b < m.width.modulus → b ≠ 0 →
      (s.stack (activeStack m)).contents = pre ++ valueBytes m.width b →
      (pre.length < m.width.bytes → exec (.stack .div m) s = .next (s.stopAt s.pc (.fault .underflow))) ∧
      (m.width.bytes ≤ pre.length → m.keep = true → (s.stack (activeStack m)).sp.toNat + m.width.bytes > 255 →
        exec (.stack .div m) s = .next (s.stopAt s.pc (.fault .overflow))))

/-! ## Bitwise -/

/-- AND, OR, XOR (R101, R102, R103). Rests on D2 (operand counts and order, log 13). -/
def Obligations.AndOrXorCombineBits : Prop :=
  ∀ (m : Mode) (a b : Nat), a < m.width.modulus → b < m.width.modulus →
    FormEffect .and m (valueBytes m.width a ++ valueBytes m.width b) (valueBytes m.width (a &&& b)) ∧
    FormEffect .or m (valueBytes m.width a ++ valueBytes m.width b) (valueBytes m.width (a ||| b)) ∧
    FormEffect .xor m (valueBytes m.width a ++ valueBytes m.width b) (valueBytes m.width (a ^^^ b))

/-- SFT (R104): right by the low nibble of the control byte, then left by the high nibble, cut to the width. Rests on D2 (operand counts
and order, log 13); the right shift of SFT being logical (G5, log 22). -/
def Obligations.SftShiftsRightThenLeft : Prop :=
  ∀ (m : Mode) (a : Nat) (c : Byte), a < m.width.modulus →
    FormEffect .sft m (valueBytes m.width a ++ [c])
      (valueBytes m.width (((a >>> (c.toNat % 16)) <<< (c.toNat / 16)) % m.width.modulus))
end

