-- ==== Sys2Proof/Laws/State.lean ====
section
/-! SUPPORT. One lemma per field of `State` per update, so that no proof unfolds a record update. -/

namespace Sys2Proof.Machine

/-! ### setPc -/

@[simp] theorem State.setPc_mem (s : State) (t : Short) : (s.setPc t).mem = s.mem := rfl
@[simp] theorem State.setPc_pc (s : State) (t : Short) : (s.setPc t).pc = t := rfl
@[simp] theorem State.setPc_ws (s : State) (t : Short) : (s.setPc t).ws = s.ws := rfl
@[simp] theorem State.setPc_rs (s : State) (t : Short) : (s.setPc t).rs = s.rs := rfl
@[simp] theorem State.setPc_status (s : State) (t : Short) : (s.setPc t).status = s.status := rfl
@[simp] theorem State.setPc_dev (s : State) (t : Short) : (s.setPc t).dev = s.dev := rfl
@[simp] theorem State.setPc_bus (s : State) (t : Short) : (s.setPc t).bus = s.bus := rfl
@[simp] theorem State.setPc_sub8Adds (s : State) (t : Short) : (s.setPc t).sub8Adds = s.sub8Adds := rfl
@[simp] theorem State.setPc_stack (s : State) (t : Short) (x : StackSel) : (s.setPc t).stack x = s.stack x := by
  cases x <;> rfl

/-! ### setMem -/

@[simp] theorem State.setMem_mem (s : State) (m : Memory) : (s.setMem m).mem = m := rfl
@[simp] theorem State.setMem_pc (s : State) (m : Memory) : (s.setMem m).pc = s.pc := rfl
@[simp] theorem State.setMem_ws (s : State) (m : Memory) : (s.setMem m).ws = s.ws := rfl
@[simp] theorem State.setMem_rs (s : State) (m : Memory) : (s.setMem m).rs = s.rs := rfl
@[simp] theorem State.setMem_status (s : State) (m : Memory) : (s.setMem m).status = s.status := rfl
@[simp] theorem State.setMem_dev (s : State) (m : Memory) : (s.setMem m).dev = s.dev := rfl
@[simp] theorem State.setMem_bus (s : State) (m : Memory) : (s.setMem m).bus = s.bus := rfl
@[simp] theorem State.setMem_sub8Adds (s : State) (m : Memory) : (s.setMem m).sub8Adds = s.sub8Adds := rfl
@[simp] theorem State.setMem_stack (s : State) (m : Memory) (x : StackSel) : (s.setMem m).stack x = s.stack x := by
  cases x <;> rfl

/-! ### setStatus -/

@[simp] theorem State.setStatus_mem (s : State) (r : Status) : (s.setStatus r).mem = s.mem := rfl
@[simp] theorem State.setStatus_pc (s : State) (r : Status) : (s.setStatus r).pc = s.pc := rfl
@[simp] theorem State.setStatus_ws (s : State) (r : Status) : (s.setStatus r).ws = s.ws := rfl
@[simp] theorem State.setStatus_rs (s : State) (r : Status) : (s.setStatus r).rs = s.rs := rfl
@[simp] theorem State.setStatus_status (s : State) (r : Status) : (s.setStatus r).status = r := rfl
@[simp] theorem State.setStatus_dev (s : State) (r : Status) : (s.setStatus r).dev = s.dev := rfl
@[simp] theorem State.setStatus_bus (s : State) (r : Status) : (s.setStatus r).bus = s.bus := rfl
@[simp] theorem State.setStatus_sub8Adds (s : State) (r : Status) : (s.setStatus r).sub8Adds = s.sub8Adds := rfl
@[simp] theorem State.setStatus_stack (s : State) (r : Status) (x : StackSel) : (s.setStatus r).stack x = s.stack x := by
  cases x <;> rfl

/-! ### setDev -/

@[simp] theorem State.setDev_mem (s : State) (d : Vector (Option Device) 16) : (s.setDev d).mem = s.mem := rfl
@[simp] theorem State.setDev_pc (s : State) (d : Vector (Option Device) 16) : (s.setDev d).pc = s.pc := rfl
@[simp] theorem State.setDev_ws (s : State) (d : Vector (Option Device) 16) : (s.setDev d).ws = s.ws := rfl
@[simp] theorem State.setDev_rs (s : State) (d : Vector (Option Device) 16) : (s.setDev d).rs = s.rs := rfl
@[simp] theorem State.setDev_status (s : State) (d : Vector (Option Device) 16) : (s.setDev d).status = s.status := rfl
@[simp] theorem State.setDev_dev (s : State) (d : Vector (Option Device) 16) : (s.setDev d).dev = d := rfl
@[simp] theorem State.setDev_bus (s : State) (d : Vector (Option Device) 16) : (s.setDev d).bus = s.bus := rfl
@[simp] theorem State.setDev_sub8Adds (s : State) (d : Vector (Option Device) 16) : (s.setDev d).sub8Adds = s.sub8Adds := rfl
@[simp] theorem State.setDev_stack (s : State) (d : Vector (Option Device) 16) (x : StackSel) : (s.setDev d).stack x = s.stack x := by
  cases x <;> rfl

/-! ### record -/

@[simp] theorem State.record_mem (s : State) (e : BusEvent) : (s.record e).mem = s.mem := rfl
@[simp] theorem State.record_pc (s : State) (e : BusEvent) : (s.record e).pc = s.pc := rfl
@[simp] theorem State.record_ws (s : State) (e : BusEvent) : (s.record e).ws = s.ws := rfl
@[simp] theorem State.record_rs (s : State) (e : BusEvent) : (s.record e).rs = s.rs := rfl
@[simp] theorem State.record_status (s : State) (e : BusEvent) : (s.record e).status = s.status := rfl
@[simp] theorem State.record_dev (s : State) (e : BusEvent) : (s.record e).dev = s.dev := rfl
@[simp] theorem State.record_bus (s : State) (e : BusEvent) : (s.record e).bus = s.bus ++ [e] := rfl
@[simp] theorem State.record_sub8Adds (s : State) (e : BusEvent) : (s.record e).sub8Adds = s.sub8Adds := rfl
@[simp] theorem State.record_stack (s : State) (e : BusEvent) (x : StackSel) : (s.record e).stack x = s.stack x := by
  cases x <;> rfl

/-! ### setStack -/

@[simp] theorem State.setStack_mem (s : State) (x : StackSel) (st : Stack) : (s.setStack x st).mem = s.mem := by
  cases x <;> rfl
@[simp] theorem State.setStack_pc (s : State) (x : StackSel) (st : Stack) : (s.setStack x st).pc = s.pc := by
  cases x <;> rfl
@[simp] theorem State.setStack_status (s : State) (x : StackSel) (st : Stack) : (s.setStack x st).status = s.status := by
  cases x <;> rfl
@[simp] theorem State.setStack_dev (s : State) (x : StackSel) (st : Stack) : (s.setStack x st).dev = s.dev := by
  cases x <;> rfl
@[simp] theorem State.setStack_bus (s : State) (x : StackSel) (st : Stack) : (s.setStack x st).bus = s.bus := by
  cases x <;> rfl
@[simp] theorem State.setStack_sub8Adds (s : State) (x : StackSel) (st : Stack) : (s.setStack x st).sub8Adds = s.sub8Adds := by
  cases x <;> rfl
@[simp] theorem State.setStack_ws_ws (s : State) (st : Stack) : (s.setStack .ws st).ws = st := rfl
@[simp] theorem State.setStack_rs_ws (s : State) (st : Stack) : (s.setStack .rs st).ws = s.ws := rfl
@[simp] theorem State.setStack_rs_rs (s : State) (st : Stack) : (s.setStack .rs st).rs = st := rfl
@[simp] theorem State.setStack_ws_rs (s : State) (st : Stack) : (s.setStack .ws st).rs = s.rs := rfl

@[simp] theorem State.stack_ws (s : State) : s.stack .ws = s.ws := rfl
@[simp] theorem State.stack_rs (s : State) : s.stack .rs = s.rs := rfl

@[simp] theorem State.stack_setStack (s : State) (x : StackSel) (st : Stack) : (s.setStack x st).stack x = st := by
  cases x <;> rfl

@[simp] theorem State.stack_other_setStack (s : State) (x : StackSel) (st : Stack) :
    (s.setStack x st).stack x.other = s.stack x.other := by
  cases x <;> rfl

@[simp] theorem State.stack_setStack_other (s : State) (x : StackSel) (st : Stack) :
    (s.setStack x.other st).stack x = s.stack x := by
  cases x <;> rfl

theorem State.stack_setStack_ne (s : State) {x y : StackSel} (st : Stack) (h : y ≠ x) :
    (s.setStack x st).stack y = s.stack y := by
  cases x <;> cases y <;> first | rfl | exact absurd rfl h

@[simp] theorem StackSel.other_ne (x : StackSel) : x.other ≠ x := by
  cases x <;> decide

@[simp] theorem StackSel.other_other (x : StackSel) : x.other.other = x := by
  cases x <;> rfl

/-! ### put, skip, setByte, memWrite, setSlot: the operations made of the updates -/

@[simp] theorem State.put_mem (s : State) (x : StackSel) (i : Nat) (w : Width) (v : Short) : (s.put x i w v).mem = s.mem :=
  State.setStack_mem ..
@[simp] theorem State.put_pc (s : State) (x : StackSel) (i : Nat) (w : Width) (v : Short) : (s.put x i w v).pc = s.pc :=
  State.setStack_pc ..
@[simp] theorem State.put_status (s : State) (x : StackSel) (i : Nat) (w : Width) (v : Short) : (s.put x i w v).status = s.status :=
  State.setStack_status ..
@[simp] theorem State.put_dev (s : State) (x : StackSel) (i : Nat) (w : Width) (v : Short) : (s.put x i w v).dev = s.dev :=
  State.setStack_dev ..
@[simp] theorem State.put_bus (s : State) (x : StackSel) (i : Nat) (w : Width) (v : Short) : (s.put x i w v).bus = s.bus :=
  State.setStack_bus ..
@[simp] theorem State.put_sub8Adds (s : State) (x : StackSel) (i : Nat) (w : Width) (v : Short) : (s.put x i w v).sub8Adds = s.sub8Adds :=
  State.setStack_sub8Adds ..

@[simp] theorem State.put_ws_ws (s : State) (i : Nat) (w : Width) (v : Short) : (s.put .ws i w v).ws = s.ws.put i w v := rfl
@[simp] theorem State.put_rs_rs (s : State) (i : Nat) (w : Width) (v : Short) : (s.put .rs i w v).rs = s.rs.put i w v := rfl
@[simp] theorem State.put_ws_rs (s : State) (i : Nat) (w : Width) (v : Short) : (s.put .ws i w v).rs = s.rs := rfl
@[simp] theorem State.put_rs_ws (s : State) (i : Nat) (w : Width) (v : Short) : (s.put .rs i w v).ws = s.ws := rfl

@[simp] theorem State.stack_put (s : State) (x : StackSel) (i : Nat) (w : Width) (v : Short) :
    (s.put x i w v).stack x = (s.stack x).put i w v :=
  State.stack_setStack ..

@[simp] theorem State.stack_other_put (s : State) (x : StackSel) (i : Nat) (w : Width) (v : Short) :
    (s.put x i w v).stack x.other = s.stack x.other :=
  State.stack_other_setStack ..

@[simp] theorem State.stack_put_other (s : State) (x : StackSel) (i : Nat) (w : Width) (v : Short) :
    (s.put x.other i w v).stack x = s.stack x :=
  State.stack_setStack_other ..

@[simp] theorem State.skip_mem (s : State) (n : Nat) : (s.skip n).mem = s.mem := rfl
@[simp] theorem State.skip_pc (s : State) (n : Nat) : (s.skip n).pc = s.pc + BitVec.ofNat 16 n := rfl
@[simp] theorem State.skip_ws (s : State) (n : Nat) : (s.skip n).ws = s.ws := rfl
@[simp] theorem State.skip_rs (s : State) (n : Nat) : (s.skip n).rs = s.rs := rfl
@[simp] theorem State.skip_status (s : State) (n : Nat) : (s.skip n).status = s.status := rfl
@[simp] theorem State.skip_dev (s : State) (n : Nat) : (s.skip n).dev = s.dev := rfl
@[simp] theorem State.skip_bus (s : State) (n : Nat) : (s.skip n).bus = s.bus := rfl
@[simp] theorem State.skip_sub8Adds (s : State) (n : Nat) : (s.skip n).sub8Adds = s.sub8Adds := rfl
@[simp] theorem State.skip_stack (s : State) (n : Nat) (x : StackSel) : (s.skip n).stack x = s.stack x :=
  State.setPc_stack ..

@[simp] theorem State.setByte_mem (s : State) (a : Short) (v : Byte) :
    (s.setByte a v).mem = Memory.write s.mem a.toNat v := rfl
@[simp] theorem State.setByte_pc (s : State) (a : Short) (v : Byte) : (s.setByte a v).pc = s.pc := rfl
@[simp] theorem State.memWrite_pc (s : State) (a : Short) (w : Width) (v : Short) : (s.memWrite a w v).pc = s.pc := by
  cases w <;> rfl
@[simp] theorem State.setByte_ws (s : State) (a : Short) (v : Byte) : (s.setByte a v).ws = s.ws := rfl
@[simp] theorem State.memWrite_ws (s : State) (a : Short) (w : Width) (v : Short) : (s.memWrite a w v).ws = s.ws := by
  cases w <;> rfl
@[simp] theorem State.setByte_rs (s : State) (a : Short) (v : Byte) : (s.setByte a v).rs = s.rs := rfl
@[simp] theorem State.memWrite_rs (s : State) (a : Short) (w : Width) (v : Short) : (s.memWrite a w v).rs = s.rs := by
  cases w <;> rfl
@[simp] theorem State.setByte_status (s : State) (a : Short) (v : Byte) : (s.setByte a v).status = s.status := rfl
@[simp] theorem State.memWrite_status (s : State) (a : Short) (w : Width) (v : Short) : (s.memWrite a w v).status = s.status := by
  cases w <;> rfl
@[simp] theorem State.setByte_dev (s : State) (a : Short) (v : Byte) : (s.setByte a v).dev = s.dev := rfl
@[simp] theorem State.memWrite_dev (s : State) (a : Short) (w : Width) (v : Short) : (s.memWrite a w v).dev = s.dev := by
  cases w <;> rfl
@[simp] theorem State.setByte_bus (s : State) (a : Short) (v : Byte) : (s.setByte a v).bus = s.bus := rfl
@[simp] theorem State.memWrite_bus (s : State) (a : Short) (w : Width) (v : Short) : (s.memWrite a w v).bus = s.bus := by
  cases w <;> rfl
@[simp] theorem State.setByte_sub8Adds (s : State) (a : Short) (v : Byte) : (s.setByte a v).sub8Adds = s.sub8Adds := rfl
@[simp] theorem State.memWrite_sub8Adds (s : State) (a : Short) (w : Width) (v : Short) : (s.memWrite a w v).sub8Adds = s.sub8Adds := by
  cases w <;> rfl
@[simp] theorem State.memWrite_stack (s : State) (a : Short) (w : Width) (v : Short) (x : StackSel) :
    (s.memWrite a w v).stack x = s.stack x := by
  cases w <;> cases x <;> rfl

@[simp] theorem State.setSlot_mem (s : State) (d : BitVec 4) (x : Option Device) : (s.setSlot d x).mem = s.mem := rfl
@[simp] theorem State.setSlot_pc (s : State) (d : BitVec 4) (x : Option Device) : (s.setSlot d x).pc = s.pc := rfl
@[simp] theorem State.setSlot_ws (s : State) (d : BitVec 4) (x : Option Device) : (s.setSlot d x).ws = s.ws := rfl
@[simp] theorem State.setSlot_rs (s : State) (d : BitVec 4) (x : Option Device) : (s.setSlot d x).rs = s.rs := rfl
@[simp] theorem State.setSlot_status (s : State) (d : BitVec 4) (x : Option Device) : (s.setSlot d x).status = s.status := rfl
@[simp] theorem State.setSlot_dev (s : State) (d : BitVec 4) (x : Option Device) :
    (s.setSlot d x).dev = s.dev.set d.toNat x d.isLt := rfl
@[simp] theorem State.setSlot_bus (s : State) (d : BitVec 4) (x : Option Device) : (s.setSlot d x).bus = s.bus := rfl
@[simp] theorem State.setSlot_sub8Adds (s : State) (d : BitVec 4) (x : Option Device) : (s.setSlot d x).sub8Adds = s.sub8Adds := rfl

end Sys2Proof.Machine
end

