-- ==== Sys2Proof/Laws/Word.lean ====
section
/-! SUPPORT. The byte-order helpers: what `hiByte`, `loByte` and `shortOf` do to each other and to values. -/

namespace Sys2Proof

theorem toNat_shortOf (hi lo : Byte) : (shortOf hi lo).toNat = hi.toNat * 256 + lo.toNat := by
  simp only [shortOf, BitVec.toNat_append]
  rw [← Nat.shiftLeft_add_eq_or_of_lt lo.isLt, Nat.shiftLeft_eq]

@[simp] theorem toNat_loByte (v : Short) : (loByte v).toNat = v.toNat % 256 := by
  simp [loByte, BitVec.extractLsb'_toNat]

@[simp] theorem toNat_hiByte (v : Short) : (hiByte v).toNat = v.toNat / 256 := by
  have h := v.isLt
  simp only [hiByte, BitVec.extractLsb'_toNat, Nat.shiftRight_eq_div_pow]
  omega

@[simp] theorem shortOf_hiByte_loByte (v : Short) : shortOf (hiByte v) (loByte v) = v := by
  apply BitVec.eq_of_toNat_eq
  simp only [toNat_shortOf, toNat_hiByte, toNat_loByte]
  omega

@[simp] theorem toNat_zext16 (b : Byte) : (zext16 b).toNat = b.toNat := by
  have h := b.isLt
  simp only [zext16, BitVec.toNat_setWidth]
  omega

@[simp] theorem loByte_shortOf (hi lo : Byte) : loByte (shortOf hi lo) = lo := by
  apply BitVec.eq_of_toNat_eq
  have h := lo.isLt
  simp only [toNat_loByte, toNat_shortOf]
  omega

@[simp] theorem hiByte_shortOf (hi lo : Byte) : hiByte (shortOf hi lo) = hi := by
  apply BitVec.eq_of_toNat_eq
  have h := lo.isLt
  simp only [toNat_hiByte, toNat_shortOf]
  omega

@[simp] theorem loByte_zext16 (b : Byte) : loByte (zext16 b) = b := by
  apply BitVec.eq_of_toNat_eq
  have h := b.isLt
  simp only [toNat_loByte, toNat_zext16]
  omega

theorem shortOf_ofNat (v : Nat) : shortOf (BitVec.ofNat 8 (v / 256)) (BitVec.ofNat 8 v) = BitVec.ofNat 16 v := by
  apply BitVec.eq_of_toNat_eq
  simp only [toNat_shortOf, BitVec.toNat_ofNat]
  omega

theorem zext16_ofNat {v : Nat} (h : v < 256) : zext16 (BitVec.ofNat 8 v) = BitVec.ofNat 16 v := by
  apply BitVec.eq_of_toNat_eq
  simp only [toNat_zext16, BitVec.toNat_ofNat]
  omega

end Sys2Proof
end

