-- ==== Sys2Proof/Laws/Memory.lean ====
section
/-! SUPPORT. Memory: a read after a write, and the canonical form, which every memory operation keeps. -/

namespace Sys2Proof.Machine

theorem Memory.read_cons (a b : Nat) (v : Byte) (m : Memory) (hm : b = a → Memory.read m b = Memory.unlisted) :
    Memory.read (Memory.cons a v m) b = if a = b then v else Memory.read m b := by
  unfold Memory.cons
  split
  · split
    · subst_vars; exact hm rfl
    · rfl
  · rfl

/-- Below the first address of a canonical memory nothing is listed. -/
theorem Memory.read_below : ∀ {m : Memory} {lo a : Nat}, Memory.wfFrom lo m = true → a < lo → Memory.read m a = Memory.unlisted
  | [], _, _, _, _ => rfl
  | (b, v) :: m, lo, a, h, ha => by
    simp only [Memory.wfFrom, Bool.and_eq_true, decide_eq_true_eq] at h
    simp only [Memory.read]
    rw [if_neg (by omega)]
    exact Memory.read_below h.2 (by omega)

theorem Memory.read_write_from : ∀ {m : Memory} {lo : Nat} (a b : Nat) (v : Byte), Memory.wfFrom lo m = true →
    Memory.read (Memory.write m a v) b = if a = b then v else Memory.read m b
  | [], _, a, b, v, _ => Memory.read_cons a b v [] fun _ => rfl
  | (c, x) :: m, lo, a, b, v, h => by
    have h' := h
    simp only [Memory.wfFrom, Bool.and_eq_true, decide_eq_true_eq] at h
    simp only [Memory.write]
    split
    · refine Memory.read_cons a b v _ ?_
      rintro rfl
      simp only [Memory.read]
      rw [if_neg (by omega)]
      exact Memory.read_below h.2 (by omega)
    · split
      · subst_vars
        rw [Memory.read_cons a b v _ (by rintro rfl; exact Memory.read_below h.2 (by omega))]
        simp only [Memory.read]
        split <;> rfl
      · simp only [Memory.read]
        split
        · rw [if_neg (by omega)]
        · exact Memory.read_write_from a b v h.2

/-- A read after a write: the byte written at its address, every other byte as before (R28, R29, R40). -/
theorem Memory.read_write {m : Memory} (h : Memory.wf m = true) (a b : Nat) (v : Byte) :
    Memory.read (Memory.write m a v) b = if a = b then v else Memory.read m b :=
  Memory.read_write_from a b v h

theorem Memory.wfFrom_mono : ∀ {m : Memory} {lo lo' : Nat}, Memory.wfFrom lo m = true → lo' ≤ lo → Memory.wfFrom lo' m = true
  | [], _, _, _, _ => rfl
  | (a, v) :: m, lo, lo', h, hl => by
    simp only [Memory.wfFrom, Bool.and_eq_true, decide_eq_true_eq] at h ⊢
    exact ⟨⟨⟨by omega, h.1.1.2⟩, h.1.2⟩, h.2⟩

theorem Memory.wfFrom_cons {m : Memory} {lo a : Nat} (v : Byte) (ha : a < 65536) (hl : lo ≤ a)
    (h : Memory.wfFrom (a + 1) m = true) : Memory.wfFrom lo (Memory.cons a v m) = true := by
  unfold Memory.cons
  split
  · exact Memory.wfFrom_mono h (by omega)
  · simp_all [Memory.wfFrom]

theorem Memory.wfFrom_write : ∀ {m : Memory} {lo a : Nat} (v : Byte), Memory.wfFrom lo m = true → a < 65536 → lo ≤ a →
    Memory.wfFrom lo (Memory.write m a v) = true
  | [], _, _, v, _, ha, hl => Memory.wfFrom_cons v ha hl rfl
  | (b, x) :: m, lo, a, v, h, ha, hl => by
    have h' := h
    simp only [Memory.wfFrom, Bool.and_eq_true, decide_eq_true_eq] at h
    simp only [Memory.write]
    split
    · refine Memory.wfFrom_cons v ha hl ?_
      simp only [Memory.wfFrom, Bool.and_eq_true, decide_eq_true_eq]
      exact ⟨⟨⟨by omega, h.1.1.2⟩, h.1.2⟩, h.2⟩
    · split
      · subst_vars; exact Memory.wfFrom_cons v ha hl h.2
      · simp only [Memory.wfFrom, Bool.and_eq_true, decide_eq_true_eq]
        exact ⟨h.1, Memory.wfFrom_write v h.2 ha (by omega)⟩

/-- A write keeps the canonical form. -/
theorem Memory.wf_write {m : Memory} {a : Nat} (v : Byte) (h : Memory.wf m = true) (ha : a < 65536) :
    Memory.wf (Memory.write m a v) = true :=
  Memory.wfFrom_write v h ha (Nat.zero_le a)

/-- Memory at creation is in canonical form. -/
theorem Memory.wf_reset : Memory.wf State.reset.mem = true := rfl

theorem Memory.wfFrom_ext : ∀ {m m' : Memory} {lo : Nat}, Memory.wfFrom lo m = true → Memory.wfFrom lo m' = true →
    (∀ a, Memory.read m a = Memory.read m' a) → m = m'
  | [], [], _, _, _, _ => rfl
  | [], (a, v) :: m', lo, _, h', he => by
    simp only [Memory.wfFrom, Bool.and_eq_true, decide_eq_true_eq] at h'
    have := he a
    simp only [Memory.read, if_true] at this
    exact absurd this.symm h'.1.2
  | (a, v) :: m, [], lo, h, _, he => by
    simp only [Memory.wfFrom, Bool.and_eq_true, decide_eq_true_eq] at h
    have := he a
    simp only [Memory.read, if_true] at this
    exact absurd this h.1.2
  | (a, v) :: m, (b, x) :: m', lo, h, h', he => by
    simp only [Memory.wfFrom, Bool.and_eq_true, decide_eq_true_eq] at h h'
    have hab : a = b := by
      rcases Nat.lt_trichotomy a b with hlt | heq | hlt
      · have := he a
        simp only [Memory.read, if_true] at this
        rw [if_neg (by omega), Memory.read_below h'.2 (by omega)] at this
        exact absurd this h.1.2
      · exact heq
      · have := he b
        simp only [Memory.read, if_true] at this
        rw [if_neg (by omega), Memory.read_below h.2 (by omega)] at this
        exact absurd this.symm h'.1.2
    subst hab
    have hv : v = x := by simpa [Memory.read] using he a
    subst hv
    have hm : m = m' := by
      refine Memory.wfFrom_ext h.2 h'.2 fun c => ?_
      by_cases hc : a = c
      · subst hc
        rw [Memory.read_below h.2 (by omega), Memory.read_below h'.2 (by omega)]
      · simpa [Memory.read, hc] using he c
    rw [hm]

/-- Two canonical memories that read the same are the same data. -/
theorem Memory.ext {m m' : Memory} (h : Memory.wf m = true) (h' : Memory.wf m' = true)
    (he : ∀ a, Memory.read m a = Memory.read m' a) : m = m' :=
  Memory.wfFrom_ext h h' he

/-! ### The same on states -/

theorem State.byteAt_setByte {s : State} (h : s.Inv) (a b : Short) (v : Byte) :
    (s.setByte a v).byteAt b = if a = b then v else s.byteAt b := by
  simp only [State.byteAt, State.setByte_mem, Memory.read_write h]
  by_cases hab : a = b
  · simp [hab]
  · rw [if_neg hab, if_neg fun h => hab (BitVec.eq_of_toNat_eq h)]

theorem State.inv_setByte {s : State} (h : s.Inv) (a : Short) (v : Byte) : (s.setByte a v).Inv :=
  Memory.wf_write v h a.isLt

theorem State.inv_memWrite {s : State} (h : s.Inv) (a : Short) (w : Width) (v : Short) : (s.memWrite a w v).Inv := by
  cases w
  · exact State.inv_setByte h ..
  · exact State.inv_setByte (State.inv_setByte h ..) ..

/-- The invariant is about memory alone. -/
theorem State.inv_of_mem_eq {s t : State} (h : t.mem = s.mem) : t.Inv ↔ s.Inv := by
  simp only [State.Inv, h]

end Sys2Proof.Machine
end

