-- ==== Sys2Proof/Laws/Stack.lean ====
section
/-! SUPPORT. The stack primitives (20_memory.md R32-R35): everything `reserve` can answer, what `peek` reads from given contents, and
what a series of `put`s makes of a stack. -/

namespace Sys2Proof

/-! ### values -/

@[simp] theorem length_valueBytes (w : Width) (v : Nat) : (valueBytes w v).length = w.bytes := by
  cases w <;> rfl

theorem Width.modulus_byte : Width.byte.modulus = 256 := rfl
theorem Width.modulus_short : Width.short.modulus = 65536 := rfl

theorem Width.modulus_le (w : Width) : w.modulus ≤ 65536 := by
  cases w <;> decide

theorem Width.modulus_pos (w : Width) : 0 < w.modulus := by
  cases w <;> decide

theorem Width.bytes_cases (w : Width) : w.bytes = 1 ∨ w.bytes = 2 := by
  cases w <;> decide

/-- A value and its remainder mod 2^(8w) lie on a stack as the same bytes (R9). -/
theorem valueBytes_mod (w : Width) (v : Nat) : valueBytes w (v % w.modulus) = valueBytes w v := by
  cases w <;> simp only [valueBytes, Width.modulus_byte, Width.modulus_short, List.cons.injEq, and_true]
  · apply BitVec.eq_of_toNat_eq
    simp only [BitVec.toNat_ofNat]
    omega
  · constructor <;> apply BitVec.eq_of_toNat_eq <;> simp only [BitVec.toNat_ofNat] <;> omega

end Sys2Proof

namespace Sys2Proof.Machine

/-! ### reserve -/

theorem Stack.reserve_underflow {st : Stack} {c p : Nat} {k : Bool} (h : st.sp.toNat < c) :
    st.reserve c p k = .error .underflow :=
  if_pos h

theorem Stack.reserve_overflow {st : Stack} {c p : Nat} {k : Bool} (hc : c ≤ st.sp.toNat)
    (hn : 255 < newPointer st.sp.toNat c p k) : st.reserve c p k = .error .overflow := by
  unfold Stack.reserve
  rw [if_neg (by omega)]
  exact if_pos hn

theorem Stack.reserve_ok {st : Stack} {c p : Nat} {k : Bool} (hc : c ≤ st.sp.toNat)
    (hn : newPointer st.sp.toNat c p k ≤ 255) :
    st.reserve c p k = .ok { st with sp := BitVec.ofNat 8 (newPointer st.sp.toNat c p k) } := by
  unfold Stack.reserve
  rw [if_neg (by omega)]
  exact if_neg (by simp only [newPointer] at hn; omega)

/-- All that `reserve` can answer (R32). -/
theorem Stack.reserve_cases (st : Stack) (c p : Nat) (k : Bool) :
    (st.sp.toNat < c ∧ st.reserve c p k = .error .underflow) ∨
    (c ≤ st.sp.toNat ∧ 255 < newPointer st.sp.toNat c p k ∧ st.reserve c p k = .error .overflow) ∨
    (c ≤ st.sp.toNat ∧ newPointer st.sp.toNat c p k ≤ 255 ∧
      st.reserve c p k = .ok { st with sp := BitVec.ofNat 8 (newPointer st.sp.toNat c p k) }) := by
  by_cases hc : st.sp.toNat < c
  · exact .inl ⟨hc, Stack.reserve_underflow hc⟩
  · by_cases hn : 255 < newPointer st.sp.toNat c p k
    · exact .inr (.inl ⟨by omega, hn, Stack.reserve_overflow (by omega) hn⟩)
    · exact .inr (.inr ⟨by omega, by omega, Stack.reserve_ok (by omega) (by omega)⟩)

/-- A stack whose pointer alone was moved. -/
def Stack.setSp (st : Stack) (n : Nat) : Stack := { st with sp := BitVec.ofNat 8 n }

@[simp] theorem Stack.setSp_dat (st : Stack) (n : Nat) : (st.setSp n).dat = st.dat := rfl
@[simp] theorem Stack.setSp_sp (st : Stack) (n : Nat) : (st.setSp n).sp = BitVec.ofNat 8 n := rfl

/-- All that a capacity check of an instruction can do: raise with the state unchanged, or go on with the pointer alone moved
(R32, R106). -/
theorem State.reserving_cases (s : State) (x : StackSel) (c p : Nat) (k : Bool) (f : State → Result) :
    ((s.stack x).sp.toNat < c ∧ s.reserving x c p k f = s.raise .underflow) ∨
    (c ≤ (s.stack x).sp.toNat ∧ 255 < newPointer (s.stack x).sp.toNat c p k ∧ s.reserving x c p k f = s.raise .overflow) ∨
    (c ≤ (s.stack x).sp.toNat ∧ newPointer (s.stack x).sp.toNat c p k ≤ 255 ∧
      s.reserving x c p k f =
        f (s.setStack x ((s.stack x).setSp (newPointer (s.stack x).sp.toNat c p k)))) := by
  rcases Stack.reserve_cases (s.stack x) c p k with ⟨h, e⟩ | ⟨h, h', e⟩ | ⟨h, h', e⟩
  · exact .inl ⟨h, by simp only [State.reserving, e]⟩
  · exact .inr (.inl ⟨h, h', by simp only [State.reserving, e]⟩)
  · exact .inr (.inr ⟨h, h', by simp only [State.reserving, e, Stack.setSp]⟩)

theorem State.reserving_underflow {s : State} {x : StackSel} {c p : Nat} {k : Bool} {f : State → Result}
    (h : (s.stack x).sp.toNat < c) : s.reserving x c p k f = s.raise .underflow := by
  simp only [State.reserving, Stack.reserve_underflow h]

theorem State.reserving_overflow {s : State} {x : StackSel} {c p : Nat} {k : Bool} {f : State → Result}
    (hc : c ≤ (s.stack x).sp.toNat) (hn : 255 < newPointer (s.stack x).sp.toNat c p k) :
    s.reserving x c p k f = s.raise .overflow := by
  simp only [State.reserving, Stack.reserve_overflow hc hn]

theorem State.reserving_ok {s : State} {x : StackSel} {c p : Nat} {k : Bool} {f : State → Result}
    (hc : c ≤ (s.stack x).sp.toNat) (hn : newPointer (s.stack x).sp.toNat c p k ≤ 255) :
    s.reserving x c p k f =
      f (s.setStack x ((s.stack x).setSp (newPointer (s.stack x).sp.toNat c p k))) := by
  simp only [State.reserving, Stack.reserve_ok hc hn, Stack.setSp]

/-! ### contents -/

@[simp] theorem Stack.length_contents (st : Stack) : st.contents.length = st.sp.toNat := by
  have h := st.sp.isLt
  simp only [Stack.contents, List.length_take, Vector.length_toList]
  omega

theorem Stack.getElem_contents (st : Stack) (j : Nat) (h : j < st.contents.length) :
    st.contents[j] = st.dat[j]'(by have := st.sp.isLt; simp at h; omega) := by
  simp only [Stack.contents, List.getElem_take, Vector.getElem_toList]

/-- Contents are given by the pointer and the bytes below it. -/
theorem Stack.contents_eq {st : Stack} {l : List Byte} (hl : l.length = st.sp.toNat)
    (h : ∀ (j : Nat) (hj : j < l.length) (hb : j < 256), st.dat[j] = l[j]) : st.contents = l := by
  apply List.ext_getElem
  · simp [hl]
  · intro j h1 h2
    rw [Stack.getElem_contents, h j h2]

/-- The byte at offset `i` is the `i`-th byte from the end of the contents (R16, R17). -/
theorem Stack.below_contents {st : Stack} {l r : List Byte} {b : Byte} (h : st.contents = l ++ b :: r) :
    st.below st.sp (r.length + 1) = b := by
  have hlen := st.length_contents
  have hsp := st.sp.isLt
  rw [h] at hlen
  simp only [List.length_append, List.length_cons] at hlen
  have hidx : (st.sp - BitVec.ofNat 8 (r.length + 1)).toNat = l.length := by
    rw [BitVec.toNat_sub, BitVec.toNat_ofNat]
    omega
  have hb : st.contents[l.length]'(by rw [h]; simp) = b := by simp [h]
  rw [Stack.getElem_contents] at hb
  simpa only [Stack.below, hidx] using hb

/-! ### peek -/

/-- `peek` reads back the width-w value that lies on the stack (R33). -/
theorem Stack.peek_contents {st : Stack} {w : Width} {l r : List Byte} {v : Nat} (hv : v < w.modulus)
    (h : st.contents = l ++ valueBytes w v ++ r) : st.peek st.sp (r.length + 1) w = BitVec.ofNat 16 v := by
  cases w with
  | byte =>
    simp only [valueBytes, List.append_assoc, List.cons_append, List.nil_append] at h
    simp only [Stack.peek, Stack.below_contents h]
    exact zext16_ofNat hv
  | short =>
    simp only [valueBytes, List.append_assoc, List.cons_append, List.nil_append] at h
    have hhi := Stack.below_contents h
    have hlo := Stack.below_contents (l := l ++ [BitVec.ofNat 8 (v / 256)]) (b := BitVec.ofNat 8 v) (r := r) (by simpa using h)
    rw [List.length_cons] at hhi
    simp only [Stack.peek, hhi, hlo, shortOf_ofNat]

theorem State.peek_contents {s : State} {x : StackSel} {w : Width} {l r : List Byte} {v : Nat} (hv : v < w.modulus)
    (h : (s.stack x).contents = l ++ valueBytes w v ++ r) : s.peek x (r.length + 1) w = BitVec.ofNat 16 v :=
  Stack.peek_contents hv h

theorem State.peekByte_contents {s : State} {x : StackSel} {l r : List Byte} {b : Byte}
    (h : (s.stack x).contents = l ++ b :: r) : s.peekByte x (r.length + 1) = b :=
  Stack.below_contents h

/-! ### put -/

@[simp] theorem Stack.putByte_sp (st : Stack) (i : Nat) (v : Byte) : (st.putByte i v).sp = st.sp := rfl

@[simp] theorem Stack.put_sp (st : Stack) (i : Nat) (w : Width) (v : Short) : (st.put i w v).sp = st.sp := by
  cases w <;> rfl

theorem Stack.putByte_index {st : Stack} {i : Nat} (hi : i ≤ st.sp.toNat) :
    (st.sp - BitVec.ofNat 8 i).toNat = st.sp.toNat - i := by
  have hsp := st.sp.isLt
  rw [BitVec.toNat_sub, BitVec.toNat_ofNat]
  omega

/-- `put` writes the byte at its offset (R34). -/
theorem Stack.getElem_putByte_self {st : Stack} {i : Nat} {v : Byte} (hi : i ≤ st.sp.toNat) {j : Nat} (hj : j < 256)
    (h : j + i = st.sp.toNat) : (st.putByte i v).dat[j] = v := by
  simp only [Stack.putByte, Vector.getElem_set, Stack.putByte_index hi]
  exact if_pos (by omega)

/-- `put` writes no other byte (R34). -/
theorem Stack.getElem_putByte_ne {st : Stack} {i : Nat} {v : Byte} (hi : i ≤ st.sp.toNat) {j : Nat} (hj : j < 256)
    (h : j + i ≠ st.sp.toNat) : (st.putByte i v).dat[j] = st.dat[j] := by
  simp only [Stack.putByte, Vector.getElem_set, Stack.putByte_index hi]
  exact if_neg (by omega)

/-- The value that `put` writes, as it lies on the stack. -/
def putBytes (w : Width) (v : Short) : List Byte := valueBytes w v.toNat

theorem putBytes_byte (v : Short) : putBytes .byte v = [loByte v] := by
  simp only [putBytes, valueBytes, List.cons.injEq, and_true]
  apply BitVec.eq_of_toNat_eq
  simp

theorem putBytes_short (v : Short) : putBytes .short v = [hiByte v, loByte v] := by
  simp only [putBytes, valueBytes, List.cons.injEq, and_true]
  have h := v.isLt
  constructor <;> apply BitVec.eq_of_toNat_eq <;> simp
  omega

/-! ### Whole effects: a capacity check followed by the puts of its results -/

theorem putBytes_ofNat (w : Width) (v : Nat) : putBytes w (BitVec.ofNat 16 v) = valueBytes w v := by
  cases w <;> simp only [putBytes, valueBytes, BitVec.toNat_ofNat, List.cons.injEq, and_true]
  · apply BitVec.eq_of_toNat_eq
    simp only [BitVec.toNat_ofNat]
    omega
  · constructor <;> apply BitVec.eq_of_toNat_eq <;> simp only [BitVec.toNat_ofNat] <;> omega

@[simp] theorem length_putBytes (w : Width) (v : Short) : (putBytes w v).length = w.bytes := length_valueBytes ..

/-- What a ready stack gives: the operands are counted by the pointer and the check passes with the pointer of the result. -/
theorem EffectReady.counts {k : Bool} {st : Stack} {pre before after : List Byte} (h : EffectReady k st pre before after) :
    st.sp.toNat = pre.length + before.length ∧ before.length ≤ st.sp.toNat ∧
    newPointer st.sp.toNat before.length after.length k = (effectResult k pre before after).length ∧
    newPointer st.sp.toNat before.length after.length k ≤ 255 := by
  obtain ⟨hc, hl⟩ := h
  have hlen := st.length_contents
  rw [hc, List.length_append] at hlen
  cases k <;> simp only [effectResult, newPointer, List.length_append, List.append_nil, if_true, Bool.false_eq_true,
    if_false] at hl ⊢ <;> omega

theorem Stack.setSp_toNat {st : Stack} {n : Nat} (h : n ≤ 255) : (st.setSp n).sp.toNat = n := by
  simp only [Stack.setSp_sp, BitVec.toNat_ofNat]
  omega

/-- A stack in the middle of writing its results: `base` stays, `room` is what the results go into, and the buffer is `st0`'s outside
`room`. -/
def Stack.Writing (st0 st : Stack) (base room : List Byte) : Prop :=
  st.contents = base ++ room ∧
  ∀ (j : Nat) (h : j < 256), (j + room.length < st.sp.toNat ∨ st.sp.toNat ≤ j) → st.dat[j] = st0.dat[j]

/-- After the capacity check there is room for the results, above the operands that stay. -/
theorem Stack.Writing.start {k : Bool} {st : Stack} {pre before after : List Byte} (h : EffectReady k st pre before after) :
    ∃ room : List Byte, room.length = after.length ∧
      Stack.Writing st (st.setSp (newPointer st.sp.toNat before.length after.length k))
        (pre ++ if k then before else []) room := by
  obtain ⟨hsp, -, hn, hle⟩ := h.counts
  have hc := h.1
  have hn' := Stack.setSp_toNat (st := st) hle
  have hlen := (st.setSp (newPointer st.sp.toNat before.length after.length k)).length_contents
  replace hlen := hlen.trans (hn'.trans hn)
  refine ⟨(st.setSp (newPointer st.sp.toNat before.length after.length k)).contents.drop
    (pre ++ if k then before else []).length, ?_, ?_, fun _ _ _ => rfl⟩
  · rw [List.length_drop, hlen]
    simp only [effectResult, List.length_append]
    omega
  · conv_lhs => rw [← List.take_append_drop (pre ++ if k then before else []).length
      (st.setSp (newPointer st.sp.toNat before.length after.length k)).contents]
    congr 1
    apply List.ext_getElem
    · rw [List.length_take, hlen]
      simp only [effectResult, List.length_append]
      omega
    · intro j h1 h2
      have hj : j < st.contents.length := by
        rw [hc]
        cases k <;> simp only [List.length_append, if_true, Bool.false_eq_true, if_false, List.length_nil] at h2 ⊢ <;> omega
      rw [List.getElem_take, Stack.getElem_contents]
      simp only [Stack.setSp_dat]
      rw [← Stack.getElem_contents st j hj]
      simp only [hc]
      cases k
      · simp only [Bool.false_eq_true, if_false, List.append_nil] at h2 ⊢
        exact List.getElem_append_left h2
      · rfl

/-- One byte of the results is written. -/
theorem Stack.Writing.putByte {st0 st : Stack} {base room : List Byte} (h : Stack.Writing st0 st base room) (i : Nat)
    (v : Byte) (hi : 1 ≤ i) (hi' : i ≤ room.length) :
    Stack.Writing st0 (st.putByte i v) base (room.set (room.length - i) v) := by
  obtain ⟨hc, hf⟩ := h
  have hlen := st.length_contents
  rw [hc, List.length_append] at hlen
  have hle : i ≤ st.sp.toNat := by omega
  refine ⟨Stack.contents_eq (by simp only [List.length_append, List.length_set, Stack.putByte_sp]; omega) ?_, ?_⟩
  · intro j hj hb
    simp only [List.length_append, List.length_set] at hj
    have hold : st.dat[j] = (base ++ room)[j]'(by rw [List.length_append]; omega) := by
      have h2 : j < st.contents.length := by rw [hc, List.length_append]; omega
      rw [← Stack.getElem_contents st j h2]
      simp only [hc]
    by_cases he : j + i = st.sp.toNat
    · rw [Stack.getElem_putByte_self hle hb he, List.getElem_append_right (by omega), List.getElem_set]
      exact (if_pos (by omega)).symm
    · rw [Stack.getElem_putByte_ne hle hb he, hold]
      by_cases hj' : j < base.length
      · rw [List.getElem_append_left hj', List.getElem_append_left hj']
      · rw [List.getElem_append_right (by omega), List.getElem_append_right (by omega), List.getElem_set]
        exact (if_neg (by omega)).symm
  · intro j hj hout
    simp only [List.length_set, Stack.putByte_sp] at hout
    rw [Stack.getElem_putByte_ne hle hj (by omega)]
    exact hf j hj hout

/-- When the room holds the results, the effect took place. -/
theorem Stack.Writing.effect {k : Bool} {st st' : Stack} {pre before after : List Byte}
    (h : Stack.Writing st st' (pre ++ if k then before else []) after) : StackEffect k st st' pre before after := h

/-- No result. -/
theorem StackEffect.put_none {k : Bool} {st : Stack} {pre before : List Byte} (h : EffectReady k st pre before []) :
    StackEffect k st (st.setSp (newPointer st.sp.toNat before.length 0 k)) pre before [] := by
  obtain ⟨room, hr, hw⟩ := Stack.Writing.start h
  obtain rfl := List.length_eq_zero_iff.mp hr
  exact hw

/-- One result. -/
theorem StackEffect.put_one {k : Bool} {st : Stack} {pre before : List Byte} {w : Width} {v : Short}
    (h : EffectReady k st pre before (putBytes w v)) :
    StackEffect k st ((st.setSp (newPointer st.sp.toNat before.length w.bytes k)).put 1 w v) pre before (putBytes w v) := by
  obtain ⟨room, hr, hw⟩ := Stack.Writing.start h
  rw [length_putBytes] at hr hw
  cases w with
  | byte =>
    match room, hr with
    | [_], _ => rw [putBytes_byte]; exact hw.putByte 1 _ (by decide) (by simp)
  | short =>
    match room, hr with
    | [_, _], _ =>
      rw [putBytes_short]
      exact (hw.putByte 1 _ (by decide) (by simp)).putByte 2 _ (by decide) (by simp)

/-- Two results. -/
theorem StackEffect.put_two {k : Bool} {st : Stack} {pre before : List Byte} {w : Width} {a b : Short}
    (h : EffectReady k st pre before (putBytes w a ++ putBytes w b)) :
    StackEffect k st (((st.setSp (newPointer st.sp.toNat before.length (2 * w.bytes) k)).put (w.bytes + 1) w a).put 1 w b)
      pre before (putBytes w a ++ putBytes w b) := by
  obtain ⟨room, hr, hw⟩ := Stack.Writing.start h
  have hl : (putBytes w a ++ putBytes w b).length = 2 * w.bytes := by simp; omega
  rw [hl] at hr hw
  cases w with
  | byte =>
    match room, hr with
    | [_, _], _ =>
      rw [putBytes_byte, putBytes_byte]
      exact (hw.putByte 2 _ (by decide) (by simp)).putByte 1 _ (by decide) (by simp)
  | short =>
    match room, hr with
    | [_, _, _, _], _ =>
      rw [putBytes_short, putBytes_short]
      exact (((hw.putByte 3 _ (by decide) (by simp)).putByte 4 _ (by decide) (by simp)).putByte 1 _ (by decide)
        (by simp)).putByte 2 _ (by decide) (by simp)

/-- Three results. -/
theorem StackEffect.put_three {k : Bool} {st : Stack} {pre before : List Byte} {w : Width} {a b c : Short}
    (h : EffectReady k st pre before (putBytes w a ++ putBytes w b ++ putBytes w c)) :
    StackEffect k st
      ((((st.setSp (newPointer st.sp.toNat before.length (3 * w.bytes) k)).put (2 * w.bytes + 1) w a).put (w.bytes + 1) w b).put
        1 w c) pre before (putBytes w a ++ putBytes w b ++ putBytes w c) := by
  obtain ⟨room, hr, hw⟩ := Stack.Writing.start h
  have hl : (putBytes w a ++ putBytes w b ++ putBytes w c).length = 3 * w.bytes := by simp; omega
  rw [hl] at hr hw
  cases w with
  | byte =>
    match room, hr with
    | [_, _, _], _ =>
      rw [putBytes_byte, putBytes_byte, putBytes_byte]
      exact ((hw.putByte 3 _ (by decide) (by simp)).putByte 2 _ (by decide) (by simp)).putByte 1 _ (by decide) (by simp)
  | short =>
    match room, hr with
    | [_, _, _, _, _, _], _ =>
      rw [putBytes_short, putBytes_short, putBytes_short]
      exact (((((hw.putByte 5 _ (by decide) (by simp)).putByte 6 _ (by decide) (by simp)).putByte 3 _ (by decide)
        (by simp)).putByte 4 _ (by decide) (by simp)).putByte 1 _ (by decide) (by simp)).putByte 2 _ (by decide) (by simp)

end Sys2Proof.Machine
end

