-- ==== Sys2Proof/Laws/Device.lean ====
section
/-! SUPPORT. The device bus: what a device read or write leaves alone, and that a port holds what was last written to it
(45_device_io.md R89-R93). -/

namespace Sys2Proof.Machine

/-! ### Slots -/

theorem State.slot_setSlot (s : State) (d e : BitVec 4) (x : Option Device) :
    (s.setSlot d x).slot e = if e = d then x else s.slot e := by
  simp only [State.slot, State.setSlot_dev, Vector.getElem_set]
  by_cases h : d = e
  · simp [h]
  · rw [if_neg (fun h' => h (BitVec.eq_of_toNat_eq h')), if_neg (fun h' => h h'.symm)]

@[simp] theorem State.slot_setSlot_same (s : State) (d : BitVec 4) (x : Option Device) : (s.setSlot d x).slot d = x := by
  rw [State.slot_setSlot, if_pos rfl]

@[simp] theorem State.slot_setStack (s : State) (x : StackSel) (st : Stack) (d : BitVec 4) :
    (s.setStack x st).slot d = s.slot d := by
  simp only [State.slot, State.setStack_dev]

@[simp] theorem State.slot_put (s : State) (x : StackSel) (i : Nat) (w : Width) (v : Short) (d : BitVec 4) :
    (s.put x i w v).slot d = s.slot d := by
  simp only [State.slot, State.put_dev]

@[simp] theorem State.slot_setStatus (s : State) (r : Status) (d : BitVec 4) : (s.setStatus r).slot d = s.slot d := rfl

@[simp] theorem State.slot_setPc (s : State) (t : Short) (d : BitVec 4) : (s.setPc t).slot d = s.slot d := rfl

@[simp] theorem State.slot_record (s : State) (e : BusEvent) (d : BitVec 4) : (s.record e).slot d = s.slot d := rfl

@[simp] theorem State.setSlot_stack (s : State) (d : BitVec 4) (o : Option Device) (x : StackSel) :
    (s.setSlot d o).stack x = s.stack x := by
  cases x <;> rfl

/-! ### The stack pointers a device reads -/

@[simp] theorem State.pointers_setSlot (s : State) (d : BitVec 4) (o : Option Device) : (s.setSlot d o).pointers = s.pointers := rfl

@[simp] theorem State.pointers_setStatus (s : State) (r : Status) : (s.setStatus r).pointers = s.pointers := rfl

@[simp] theorem State.pointers_setPc (s : State) (t : Short) : (s.setPc t).pointers = s.pointers := rfl

@[simp] theorem State.pointers_record (s : State) (e : BusEvent) : (s.record e).pointers = s.pointers := rfl

/-- Results are put into the buffer: no pointer moves. -/
@[simp] theorem State.pointers_put (s : State) (x : StackSel) (i : Nat) (w : Width) (v : Short) :
    (s.put x i w v).pointers = s.pointers := by
  cases x <;> simp [State.pointers]

/-- A host device's read, in terms of what it is given. -/
theorem State.devRead_host {s : State} {d : BitVec 4} {id : Nat} {st : HostState} (h : s.slot d = some (.host id st))
    (p : BitVec 4) (w : Width) :
    s.devRead d p w = ((hostRead id st s.pointers p w).1,
      (s.setSlot d (some (.host id (hostRead id st s.pointers p w).2))).record
        ⟨.input, d, p, w, (hostRead id st s.pointers p w).1⟩) := by
  simp only [State.devRead, h]

/-- A host device's write, in terms of what it is given. -/
theorem State.devWrite_host {s : State} {d : BitVec 4} {id : Nat} {st : HostState} (h : s.slot d = some (.host id st))
    (p : BitVec 4) (w : Width) (v : Short) :
    s.devWrite d p w v =
      (s.setSlot d (some (.host id (hostWrite id st s.pointers p w v)))).record ⟨.output, d, p, w, v⟩ := by
  simp only [State.devWrite, h]

/-- What a host device is called with decides its answer: the two pointers are read (R88), nothing else of the machine is. -/
theorem State.devRead_host_answer {s t : State} {d : BitVec 4} {id : Nat} {st : HostState} (hs : s.slot d = some (.host id st))
    (ht : t.slot d = some (.host id st)) (hp : s.pointers = t.pointers) (p : BitVec 4) (w : Width) :
    (s.devRead d p w).1 = (t.devRead d p w).1 := by
  rw [State.devRead_host hs, State.devRead_host ht, hp]

/-! ### Storage of the System device -/

theorem SystemPorts.read_write (r : SystemPorts) (p q : BitVec 4) (v : Byte) (hp4 : p ≠ 4) (hp5 : p ≠ 5) (hq4 : q ≠ 4)
    (hq5 : q ≠ 5) : (r.write p v).read q = if q = p then v else r.read q := by
  have h4 : ∀ x : BitVec 4, x ≠ 4 → x.toNat ≠ 4 := fun x h h' => h (BitVec.eq_of_toNat_eq h')
  have h5 : ∀ x : BitVec 4, x ≠ 5 → x.toNat ≠ 5 := fun x h h' => h (BitVec.eq_of_toNat_eq h')
  have := h4 p hp4; have := h5 p hp5; have := h4 q hq4; have := h5 q hq5
  have hpl := p.isLt; have hql := q.isLt
  by_cases hpq : q = p
  · subst hpq
    rw [if_pos rfl]
    unfold SystemPorts.write SystemPorts.read
    by_cases h : q.toNat < 4 <;> simp [h]
  · have hne : q.toNat ≠ p.toNat := fun h => hpq (BitVec.eq_of_toNat_eq h)
    rw [if_neg hpq]
    unfold SystemPorts.write SystemPorts.read
    by_cases h : p.toNat < 4 <;> by_cases h' : q.toNat < 4 <;> simp [h, h', Vector.getElem_set] <;> omega

/-! ### What a port write of a core-local device leaves alone -/

@[simp] theorem State.writePort_mem (s : State) (d p : BitVec 4) (v : Byte) : (s.writePort d p v).mem = s.mem := by
  unfold State.writePort State.writeSystem
  split <;> (try split) <;> (try split) <;> simp

@[simp] theorem State.writePort_pc (s : State) (d p : BitVec 4) (v : Byte) : (s.writePort d p v).pc = s.pc := by
  unfold State.writePort State.writeSystem
  split <;> (try split) <;> (try split) <;> simp

@[simp] theorem State.writePort_status (s : State) (d p : BitVec 4) (v : Byte) : (s.writePort d p v).status = s.status := by
  unfold State.writePort State.writeSystem
  split <;> (try split) <;> (try split) <;> simp

@[simp] theorem State.writePort_bus (s : State) (d p : BitVec 4) (v : Byte) : (s.writePort d p v).bus = s.bus := by
  unfold State.writePort State.writeSystem
  split <;> (try split) <;> (try split) <;> simp

@[simp] theorem State.writePort_sub8Adds (s : State) (d p : BitVec 4) (v : Byte) :
    (s.writePort d p v).sub8Adds = s.sub8Adds := by
  unfold State.writePort State.writeSystem
  split <;> (try split) <;> (try split) <;> simp

/-- A port write changes no buffer byte (R25). -/
theorem State.writePort_dat (s : State) (d p : BitVec 4) (v : Byte) :
    (s.writePort d p v).ws.dat = s.ws.dat ∧ (s.writePort d p v).rs.dat = s.rs.dat := by
  unfold State.writePort State.writeSystem
  split <;> (try split) <;> (try split) <;> simp

/-- A port write changes no other slot. -/
theorem State.writePort_slot_ne (s : State) (d p e : BitVec 4) (v : Byte) (h : e ≠ d) :
    (s.writePort d p v).slot e = s.slot e := by
  unfold State.writePort State.writeSystem
  split <;> (try split) <;> (try split) <;> simp [State.slot_setSlot, h]

/-- A port write leaves the kind of the device (R21). -/
theorem State.writePort_kind (s : State) (d p e : BitVec 4) (v : Byte) :
    ((s.writePort d p v).slot e).map Device.kind = (s.slot e).map Device.kind := by
  by_cases h : e = d
  · subst h
    unfold State.writePort State.writeSystem
    split <;> (try split) <;> (try split) <;> simp_all [Device.kind]
  · rw [State.writePort_slot_ne s d p e v h]

/-- A port write of a device that is not the System device moves no pointer. -/
theorem State.writePort_console (s : State) {d : BitVec 4} {r : Vector Byte 16} (h : s.slot d = some (.console r))
    (p : BitVec 4) (v : Byte) : s.writePort d p v = s.setSlot d (some (.console (r.set p.toNat v p.isLt))) := by
  simp only [State.writePort, h]

theorem State.writePort_system (s : State) {d : BitVec 4} {r : SystemPorts} (h : s.slot d = some (.system r))
    (p : BitVec 4) (v : Byte) : s.writePort d p v = s.writeSystem d r p v := by
  simp only [State.writePort, h]

theorem State.readPort_console (s : State) {d : BitVec 4} {r : Vector Byte 16} (h : s.slot d = some (.console r))
    (p : BitVec 4) : s.readPort d p = r[p.toNat]'p.isLt := by
  simp only [State.readPort, h]

theorem State.readPort_system (s : State) {d : BitVec 4} {r : SystemPorts} (h : s.slot d = some (.system r))
    (p : BitVec 4) : s.readPort d p = systemByte s r p := by
  simp only [State.readPort, h, State.readSystem, systemByte]

/-! ### What a bus read or write leaves alone -/

/-- A device read leaves the stacks, memory, pc, outcome and parameter. -/
theorem State.devRead_frame (s : State) (d p : BitVec 4) (w : Width) :
    (s.devRead d p w).2.mem = s.mem ∧ (s.devRead d p w).2.pc = s.pc ∧ (s.devRead d p w).2.ws = s.ws ∧
    (s.devRead d p w).2.rs = s.rs ∧ (s.devRead d p w).2.status = s.status ∧ (s.devRead d p w).2.sub8Adds = s.sub8Adds := by
  unfold State.devRead
  split <;> simp

/-- A device read changes no other slot, and adds at most the one event of the call (R93, R94). -/
theorem State.devRead_bus (s : State) (d p : BitVec 4) (w : Width) :
    ((s.devRead d p w).2.dev = s.dev ∧ (s.devRead d p w).2.bus = s.bus) ∨
    ((s.devRead d p w).2.bus = s.bus ++ [⟨.input, d, p, w, (s.devRead d p w).1⟩] ∧
      ∀ e, e ≠ d → (s.devRead d p w).2.slot e = s.slot e) := by
  unfold State.devRead
  split
  · exact .inl ⟨rfl, rfl⟩
  · refine .inr ⟨by simp, fun e he => ?_⟩
    simp [State.slot_setSlot, he]
  · exact .inr ⟨rfl, fun _ _ => rfl⟩
  · exact .inr ⟨rfl, fun _ _ => rfl⟩

/-- A device write leaves the buffers, memory, pc, outcome and parameter. -/
theorem State.devWrite_frame (s : State) (d p : BitVec 4) (w : Width) (v : Short) :
    (s.devWrite d p w v).mem = s.mem ∧ (s.devWrite d p w v).pc = s.pc ∧ (s.devWrite d p w v).status = s.status ∧
    (s.devWrite d p w v).sub8Adds = s.sub8Adds ∧ (s.devWrite d p w v).ws.dat = s.ws.dat ∧
    (s.devWrite d p w v).rs.dat = s.rs.dat := by
  unfold State.devWrite State.writePorts
  split <;> (try cases w) <;> simp [State.writePort_dat]

/-- A device write changes no other slot, and adds at most the one event of the call (R93, R94). -/
theorem State.devWrite_bus (s : State) (d p : BitVec 4) (w : Width) (v : Short) :
    ((s.devWrite d p w v).dev = s.dev ∧ (s.devWrite d p w v).bus = s.bus) ∨
    ((s.devWrite d p w v).bus = s.bus ++ [⟨.output, d, p, w, v⟩] ∧
      ∀ e, e ≠ d → (s.devWrite d p w v).slot e = s.slot e) := by
  unfold State.devWrite State.writePorts
  split
  · exact .inl ⟨rfl, rfl⟩
  · refine .inr ⟨by simp, fun e he => ?_⟩
    simp [State.slot_setSlot, he]
  · refine .inr ⟨by cases w <;> simp, fun e he => ?_⟩
    cases w <;> simp [State.writePort_slot_ne, he]
  · refine .inr ⟨by cases w <;> simp, fun e he => ?_⟩
    cases w <;> simp [State.writePort_slot_ne, he]

/-- A device read leaves the kinds of all devices (R21). -/
theorem State.devRead_kind (s : State) (d p e : BitVec 4) (w : Width) :
    ((s.devRead d p w).2.slot e).map Device.kind = (s.slot e).map Device.kind := by
  unfold State.devRead
  split
  · rfl
  · next h =>
    simp only [State.slot_record, State.slot_setSlot]
    split
    · next he => rw [he, h]; rfl
    · rfl
  · rfl
  · rfl

/-- A device write leaves the kinds of all devices (R21). -/
theorem State.devWrite_kind (s : State) (d p e : BitVec 4) (w : Width) (v : Short) :
    ((s.devWrite d p w v).slot e).map Device.kind = (s.slot e).map Device.kind := by
  unfold State.devWrite State.writePorts
  split
  · rfl
  · next h =>
    simp only [State.slot_record, State.slot_setSlot]
    split
    · next he => rw [he, h]; rfl
    · rfl
  · cases w <;> simp only [State.slot_record, State.writePort_kind]
  · cases w <;> simp only [State.slot_record, State.writePort_kind]

end Sys2Proof.Machine
end

