-- ==== Sys2Proof/Laws/Exec.lean ====
section
/-! SUPPORT. From the 256 arms of `exec` to the 31 shared operations: every instruction is an immediate opcode or a form of a base
operation, and running a form is running its operation with its flags. -/

namespace Sys2Proof.Machine

/-- The shared meaning of a base operation. -/
def opMeaning (op : Op) (m : Mode) (s : State) : Result :=
  match op with
  | .inc => incOp m s
  | .pop => popOp m s
  | .nip => nipOp m s
  | .swp => swpOp m s
  | .rot => rotOp m s
  | .dup => dupOp m s
  | .ovr => ovrOp m s
  | .equ => equOp m s
  | .neq => neqOp m s
  | .gth => gthOp m s
  | .lth => lthOp m s
  | .jmp => jmpOp m s
  | .jcn => jcnOp m s
  | .jsr => jsrOp m s
  | .sth => sthOp m s
  | .ldz => ldzOp m s
  | .stz => stzOp m s
  | .ldr => ldrOp m s
  | .str => strOp m s
  | .lda => ldaOp m s
  | .sta => staOp m s
  | .dei => deiOp m s
  | .deo => deoOp m s
  | .add => addOp m s
  | .sub => subOp m s
  | .mul => mulOp m s
  | .div => divOp m s
  | .and => andOp m s
  | .or => orOp m s
  | .xor => xorOp m s
  | .sft => sftOp m s

/-- Running the form of `op` with flags `m` is running `op` with those flags (30_encoding.md R46). -/
theorem exec_stack (op : Op) (m : Mode) (s : State) : exec (.stack op m) s = opMeaning op m s := by
  obtain ⟨k, r, w⟩ := m
  cases op <;> cases k <;> cases r <;> cases w <;> rfl

/-- The base operation and the flags of an instruction; none for the immediate opcodes. -/
def formOf (i : Instr) : Option (Op × Mode) :=
  (opOf ((encode i).headD 0)).map fun op => (op, modeOf ((encode i).headD 0))

theorem formOf_stack (op : Op) (m : Mode) : formOf (.stack op m) = some (op, m) := by
  obtain ⟨k, r, w⟩ := m
  cases op <;> cases k <;> cases r <;> cases w <;> rfl

/-- Forms of different operations or flags are different instructions. -/
theorem stack_inj {op op' : Op} {m m' : Mode} (h : Instr.stack op m = Instr.stack op' m') : op = op' ∧ m = m' := by
  have := congrArg formOf h
  simpa only [formOf_stack, Option.some.injEq, Prod.mk.injEq] using this

/-- Every instruction is one of the eight immediate opcodes or a form of a base operation (R45, R46). -/
theorem instr_cases_form (i : Instr) :
    i = .brk ∨ (∃ d, i = .jci d) ∨ (∃ d, i = .jmi d) ∨ (∃ d, i = .jsi d) ∨ (∃ v, i = .lit v) ∨ (∃ v, i = .lit2 v) ∨
    (∃ v, i = .litr v) ∨ (∃ v, i = .lit2r v) ∨ ∃ op m, i = .stack op m := by
  have key : match formOf i with
      | some (op, m) => i = .stack op m
      | none => i = .brk ∨ (∃ d, i = .jci d) ∨ (∃ d, i = .jmi d) ∨ (∃ d, i = .jsi d) ∨ (∃ v, i = .lit v) ∨
          (∃ v, i = .lit2 v) ∨ (∃ v, i = .litr v) ∨ (∃ v, i = .lit2r v) := by
    cases i <;> first | rfl | simp [formOf, encode, opOf]
  revert key
  cases formOf i with
  | none => intro h; tauto
  | some x => intro h; have : ∃ op m, i = .stack op m := ⟨x.1, x.2, h⟩; tauto

/-- The encoding of a form is one byte. -/
theorem length_encode_stack (op : Op) (m : Mode) : (encode (.stack op m)).length = 1 := by
  obtain ⟨k, r, w⟩ := m
  cases op <;> cases k <;> cases r <;> cases w <;> rfl

theorem activeStack_other (m : Mode) : (activeStack m).other = otherStack m := rfl

theorem otherStack_other (m : Mode) : (otherStack m).other = activeStack m := StackSel.other_other _

end Sys2Proof.Machine
end

