-- ==== Sys2Proof/Laws/Operations.lean ====
section
/-! SUPPORT. One lemma per shared operation: what it does when its operands are there and its result has room.  Proofs about an
instruction cite these and unfold no operation. -/

namespace Sys2Proof.Machine

/-- One check on the active stack, then a continuation that ends with the effect. -/
theorem State.reserving_active {m : Mode} {s : State} {pre before after : List Byte} {c p : Nat}
    {f : State → Result} {t : State} {pc'}
    (hr : EffectReady m.keep (s.stack (activeStack m)) pre before after) (hc : c = before.length) (hp : p = after.length)
    (hf : f (s.setStack (activeStack m)
      ((s.stack (activeStack m)).setSp (newPointer (s.stack (activeStack m)).sp.toNat c p m.keep))) = .next t)
    (he : ActiveEffect m s t pre before after pc') :
    ∃ t, s.reserving (activeStack m) c p m.keep f = .next t ∧ ActiveEffect m s t pre before after pc' := by
  subst hc hp
  obtain ⟨_, h1, h2, h3⟩ := hr.counts
  exact ⟨t, by rw [State.reserving_ok h1 h3, hf], he⟩

/-- Two operands lie at their offsets below the pointer (R33). -/
theorem State.peek_two {s : State} {x w pre a b} (ha : a < Width.modulus w) (hb : b < Width.modulus w)
    (h : (s.stack x).contents = pre ++ (valueBytes w a ++ valueBytes w b)) :
    s.peek x (w.bytes + 1) w = BitVec.ofNat 16 a ∧ s.peek x 1 w = BitVec.ofNat 16 b := by
  constructor
  · have := State.peek_contents (l := pre) (r := valueBytes w b) ha (by simpa using h)
    simpa using this
  · exact State.peek_contents (l := pre ++ valueBytes w a) (r := []) hb (by simpa using h)

/-- Three operands lie at their offsets below the pointer (R33). -/
theorem State.peek_three {s : State} {x w pre a b c} (ha : a < Width.modulus w) (hb : b < Width.modulus w) (hc : c < Width.modulus w)
    (h : (s.stack x).contents = pre ++ (valueBytes w a ++ valueBytes w b ++ valueBytes w c)) :
    s.peek x (2 * w.bytes + 1) w = BitVec.ofNat 16 a ∧
     s.peek x (w.bytes + 1) w = BitVec.ofNat 16 b ∧ s.peek x 1 w = BitVec.ofNat 16 c := by
  refine ⟨?_, State.peek_two (pre := pre ++ valueBytes w a) hb hc (by simpa using h)⟩
  have := State.peek_contents (l := pre) (r := valueBytes w b ++ valueBytes w c) ha (by simpa using h)
  simpa [two_mul] using this

/-- A width-w value fits 16 bits. -/
theorem Width.lt_65536 {w : Width} {a : Nat} (h : a < w.modulus) : a < 65536 := lt_of_lt_of_le h w.modulus_le

/-- A value and its remainder mod 65536 lie on a stack as the same bytes. -/
theorem valueBytes_mod_65536 (w : Width) (v : Nat) : valueBytes w (v % 65536) = valueBytes w v := by
  rw [← valueBytes_mod w (v % 65536), ← valueBytes_mod w v]
  congr 1
  cases w
  · exact Nat.mod_mod_of_dvd _ (by decide)
  · exact Nat.mod_mod_of_dvd _ (by decide)

/-- What a binary operation does when its operands are there and its result has room. -/
theorem binaryOp_effect {f : Short → Short → Short} {m : Mode} {a b v : Nat}
    (hf : valueBytes m.width (f (BitVec.ofNat 16 a) (BitVec.ofNat 16 b)).toNat = valueBytes m.width v)
    (ha : a < m.width.modulus) (hb : b < m.width.modulus) (s : State) (pre : List Byte)
    (hr : EffectReady m.keep (s.stack (activeStack m)) pre (valueBytes m.width a ++ valueBytes m.width b)
      (valueBytes m.width v)) :
    ∃ t, binaryOp f m s = .next t ∧
      ActiveEffect m s t pre (valueBytes m.width a ++ valueBytes m.width b) (valueBytes m.width v) s.pc := by
  obtain ⟨h1, h2⟩ := State.peek_two ha hb hr.1
  have hv : valueBytes m.width v = putBytes m.width (f (BitVec.ofNat 16 a) (BitVec.ofNat 16 b)) := hf.symm
  rw [hv] at hr ⊢
  unfold binaryOp
  refine State.reserving_active hr (by simp; omega) (by simp) rfl
    ⟨?_, by simp [otherStack], by simp, by simp, by simp [SameOutside]⟩
  have := StackEffect.put_one hr
  simp only [List.length_append, length_valueBytes, ← two_mul] at this
  simpa [h1, h2] using this

/-- What a comparison does when its operands are there and its result has room. -/
theorem compareOp_effect {rel : Short → Short → Bool} {m : Mode} {a b : Nat} {x : Byte}
    (hx : x = loByte (boolByte (rel (BitVec.ofNat 16 a) (BitVec.ofNat 16 b))))
    (ha : a < m.width.modulus) (hb : b < m.width.modulus) (s : State) (pre : List Byte)
    (hr : EffectReady m.keep (s.stack (activeStack m)) pre (valueBytes m.width a ++ valueBytes m.width b) [x]) :
    ∃ t, compareOp rel m s = .next t ∧
      ActiveEffect m s t pre (valueBytes m.width a ++ valueBytes m.width b) [x] s.pc := by
  obtain ⟨h1, h2⟩ := State.peek_two ha hb hr.1
  rw [hx, ← putBytes_byte] at hr ⊢
  unfold compareOp
  refine State.reserving_active hr (by simp; omega) (by simp [Width.bytes]) rfl
    ⟨?_, by simp [otherStack], by simp, by simp, by simp [SameOutside]⟩
  have := StackEffect.put_one hr
  simp only [List.length_append, length_valueBytes, ← two_mul] at this
  have hb : Width.byte.bytes = 1 := rfl
  rw [hb] at this
  simpa [h1, h2] using this

/-- The target of an immediate jump, as integer arithmetic (R51). -/
theorem inlineTarget_eq (p d : Short) : BitVec.ofInt 16 ((p.toNat : Int) + 2 + d.toInt) = p + 2 + d := by
  apply BitVec.eq_of_toInt_eq
  simp [BitVec.toInt_add, BitVec.toInt_ofInt]
  rw [BitVec.toInt_eq_toNat_bmod p, Int.add_assoc, Int.add_assoc, Int.bmod_add_bmod]

/-- A push with room is ready. -/
theorem EffectReady.push {st : Stack} {k : Bool} {bs : List Byte} (h : st.sp.toNat + bs.length ≤ 255) :
    EffectReady k st st.contents [] bs := by
  refine ⟨by simp, ?_⟩
  cases k <;> simpa [effectResult] using h

/-- With nothing consumed, keep makes no difference. -/
theorem StackEffect.forget_keep {k st st' pre after} (h : StackEffect k st st' pre [] after) :
    StackEffect false st st' pre [] after := by
  cases k
  · exact h
  · simpa [StackEffect, effectResult] using h

/-- What a literal does when its value has room (R60-R63). -/
theorem pushInline_effect {x : StackSel} {w : Width} {v : Short} {s : State} (h : (s.stack x).sp.toNat + w.bytes ≤ 255) :
    ∃ t, pushInline x w v s = .next t ∧ PushEffect x s t (putBytes w v) (s.pc + BitVec.ofNat 16 w.bytes) := by
  have hr : EffectReady true (s.stack x) (s.stack x).contents [] (putBytes w v) := EffectReady.push (by simpa using h)
  obtain ⟨_, h1, h2, h3⟩ := hr.counts
  have he := StackEffect.forget_keep (StackEffect.put_one hr)
  simp only [pushInline]
  rw [State.reserving_ok (by simp) (by simpa using h3)]
  refine ⟨_, rfl, ?_, by simp, by simp, by simp, by simp [SameOutside]⟩
  simpa using he

/-- A literal without room. -/
theorem pushInline_overflow {x : StackSel} {w : Width} {v : Short} {s : State} (h : (s.stack x).sp.toNat + w.bytes > 255) :
    pushInline x w v s = .next (s.stopAt (s.pc + BitVec.ofNat 16 w.bytes) (.fault .overflow)) := by
  simp only [pushInline]
  rw [State.reserving_overflow (by simp) (by simpa [newPointer] using h)]
  rfl

/-- A pc-relative address, as integer arithmetic (R77, R83). -/
theorem pc_add_sext8 (p : Short) (d : Byte) : p + sext8 d = relativeTo p d.toNat := by
  have h := d.isLt
  apply BitVec.eq_of_toInt_eq
  have : ((sext8 d).toInt) = signedByte d.toNat := by
    rw [sext8, BitVec.toInt_signExtend_of_le (by decide), BitVec.toInt_eq_toNat_cond, signedByte]
    split <;> split <;> omega
  simp [relativeTo, BitVec.toInt_add, BitVec.toInt_ofInt, this]
  rw [BitVec.toInt_eq_toNat_bmod p]
  simp

/-- `jumpTarget` of a width-w operand (R77). -/
theorem jumpTarget_eq {s : State} {w : Width} {a : Nat} (ha : a < w.modulus) :
    s.jumpTarget (BitVec.ofNat 16 a) w = targetOf w s.pc a := by
  cases w
  · simp only [State.jumpTarget, targetOf, pc_add_sext8]
    congr 1
    simp [Width.modulus_byte] at *
    omega
  · rfl

/-- A loaded value lies on a stack as the bytes of memory, in their order (R28, R31). -/
theorem putBytes_memRead (s : State) (a : Short) (w : Width) : putBytes w (s.memRead a w) = s.bytesAt a w := by
  cases w
  · simp [State.memRead, State.bytesAt, putBytes_byte]
  · simp [State.memRead, State.bytesAt, putBytes_short]

/-- What a load with a byte operand does (R81, R83). -/
theorem loadByteAddr_effect {addr : Byte → Short} {m : Mode} {s : State} {pre} {x : Byte} {a : Short}
    (hx : addr x = a) (hr : EffectReady m.keep (s.stack (activeStack m)) pre [x] (s.bytesAt a m.width)) :
    ∃ t, loadByteAddr addr m s = .next t ∧ ActiveEffect m s t pre [x] (s.bytesAt a m.width) s.pc := by
  have hp : s.peekByte (activeStack m) 1 = x := State.peekByte_contents (l := pre) (r := []) (by simpa using hr.1)
  rw [← putBytes_memRead] at hr ⊢
  unfold loadByteAddr
  refine State.reserving_active hr (by simp) (by simp) rfl
    ⟨?_, by simp [otherStack], by simp, by simp, by simp [SameOutside]⟩
  have := StackEffect.put_one hr
  simpa [hp, hx] using this

/-- The zero page address (R81, R82). -/
theorem zeroPageAddr_eq (a : Byte) : zeroPageAddr a = BitVec.ofNat 16 a.toNat := by
  apply BitVec.eq_of_toNat_eq
  have := a.isLt
  simp [zeroPageAddr]
  omega

/-- The second byte of a short lies elsewhere than the first. -/
theorem succ_ne (a : Short) : a + 1 ≠ a := by
  intro h
  have := congrArg BitVec.toNat h
  simp at this
  omega

/-- What a store does to memory (R29). -/
theorem StoredAt.memWrite {s : State} (hi : s.Inv) (a : Short) (w : Width) {v : Nat} (hv : v < w.modulus) :
    StoredAt s (s.memWrite a w (BitVec.ofNat 16 v)) a w v := by
  intro x
  cases w
  · simp only [State.memWrite, State.byteAt_setByte hi]
    simp only [eq_comm (a := a)]
    congr 1
    apply BitVec.eq_of_toNat_eq; simp
  · simp only [State.memWrite, State.byteAt_setByte (State.inv_setByte hi ..), State.byteAt_setByte hi, Width.modulus_short] at *
    have h1 : loByte (BitVec.ofNat 16 v) = BitVec.ofNat 8 v := by apply BitVec.eq_of_toNat_eq; simp
    have h2 : hiByte (BitVec.ofNat 16 v) = BitVec.ofNat 8 (v / 256) := by apply BitVec.eq_of_toNat_eq; simp; omega
    rw [h1, h2]
    by_cases hx : x = a
    · subst hx; rw [if_neg (succ_ne x), if_pos rfl, if_pos rfl]
    · rw [if_neg hx]
      by_cases hy : x = a + 1
      · rw [if_pos hy.symm, if_pos hy]
      · rw [if_neg (fun h => hy h.symm), if_neg hy, if_neg (fun h => hx h.symm)]

/-- `StoredAt` looks at the memory before and after alone. -/
theorem StoredAt.of_mem_eq {s u t : State} {a w v} (h : StoredAt s t a w v) (hm : s.mem = u.mem) : StoredAt u t a w v := by
  intro x; have := h x; simpa only [State.byteAt, hm] using this

/-- One check on the active stack, then a store. -/
theorem State.reserving_store {m : Mode} {s : State} {pre before : List Byte} {c : Nat} {f : State → Result}
    {a : Short} {v : Nat} (hi : s.Inv) (hv : v < m.width.modulus)
    (hr : EffectReady m.keep (s.stack (activeStack m)) pre before []) (hc : c = before.length)
    (hf : ∀ u, f u = (u.memWrite a m.width (BitVec.ofNat 16 v)).complete) :
    ∃ t, s.reserving (activeStack m) c 0 m.keep f = .next t ∧ StoreEffect m s t pre before a v := by
  subst hc
  obtain ⟨_, h1, h2, h3⟩ := hr.counts
  simp only [List.length_nil] at h1 h3
  rw [State.reserving_ok h1 h3, hf]
  refine ⟨_, rfl, ?_, by simp [otherStack], ?_, by simp, by simp, by simp, by simp, by simp⟩
  · simpa using StackEffect.put_none hr
  · intro x
    refine (StoredAt.of_mem_eq (u := s) (StoredAt.memWrite (s := s.setStack (activeStack m) ((s.stack (activeStack m)).setSp
          (newPointer (s.stack (activeStack m)).sp.toNat before.length 0 m.keep))) ?_ a m.width hv) (by simp)) x
    exact (State.inv_of_mem_eq (by simp)).mpr hi

/-- The pointer after a check that only consumes. -/
theorem Stack.setSp_popped {m : Mode} {s : State} {n : Nat} (h : n ≤ (s.stack (activeStack m)).sp.toNat) :
    (s.stack (activeStack m)).setSp (newPointer (s.stack (activeStack m)).sp.toNat n 0 m.keep) =
      { s.stack (activeStack m) with sp := poppedSp m s n (activeStack m) } := by
  have := (s.stack (activeStack m)).sp.isLt
  simp only [Stack.setSp, poppedSp, newPointer]
  congr 1
  apply BitVec.eq_of_toNat_eq
  cases m.keep with
  | true => simp
  | false =>
    simp [BitVec.toNat_sub]
    omega

/-- Readiness depends on the length of the result alone. -/
theorem EffectReady.of_length {k st pre before after after'} (h : EffectReady k st pre before after) (hl : after'.length = after.length) :
    EffectReady k st pre before after' := by
  refine ⟨h.1, ?_⟩
  have := h.2
  simp only [effectResult, List.length_append] at *; omega

/-- DEI whose check passes (R95): the device is read in the state after the check and the answer is put. -/
theorem deiOp_checked {m : Mode} {s : State} {pre : List Byte} {p8 : Byte} {v : Nat}
    (hr : EffectReady m.keep (s.stack (activeStack m)) pre [p8] (valueBytes m.width v)) :
    let s1 := s.setStack (activeStack m)
      ((s.stack (activeStack m)).setSp (newPointer (s.stack (activeStack m)).sp.toNat 1 m.width.bytes m.keep))
    let r := s1.devRead (slotOf p8) (portOf p8) m.width
    exec (.stack .dei m) s = (r.2.put (activeStack m) 1 m.width r.1).complete ∧
    ∀ u : State, u.stack (activeStack m) = s1.stack (activeStack m) →
      StackEffect m.keep (s.stack (activeStack m)) ((u.put (activeStack m) 1 m.width r.1).stack (activeStack m)) pre [p8]
        (putBytes m.width r.1) := by
  intro s1 r
  have hr' := EffectReady.of_length (after' := putBytes m.width r.1) hr (by simp)
  have hp : s.peekByte (activeStack m) 1 = p8 := State.peekByte_contents (l := pre) (r := []) (by simpa using hr.1)
  obtain ⟨_, h1, h2, h3⟩ := hr.counts
  simp only [length_valueBytes, List.length_singleton] at h1 h3
  constructor
  · simp only [exec_stack, opMeaning, deiOp]
    rw [State.reserving_ok h1 h3, hp]
  · intro u hu
    have := StackEffect.put_one hr'
    simp only [List.length_singleton] at this
    rw [State.stack_put, hu]
    simpa [s1] using this

/-- DEO whose two checks pass (R96): the device is written in the state with both operands popped. -/
theorem deoOp_checked {m : Mode} {s : State} {pre : List Byte} {p8 : Byte} {v : Nat} (hv : v < m.width.modulus)
    (hr : EffectReady m.keep (s.stack (activeStack m)) pre (valueBytes m.width v ++ [p8]) []) :
    let s2 := s.setStack (activeStack m)
      ((s.stack (activeStack m)).setSp (newPointer (s.stack (activeStack m)).sp.toNat (m.width.bytes + 1) 0 m.keep))
    exec (.stack .deo m) s = (s2.devWrite (slotOf p8) (portOf p8) m.width (BitVec.ofNat 16 v)).complete ∧
    StackEffect m.keep (s.stack (activeStack m)) (s2.stack (activeStack m)) pre (valueBytes m.width v ++ [p8]) [] := by
  intro s2
  have hp : s.peekByte (activeStack m) 1 = p8 := State.peekByte_contents (l := pre ++ valueBytes m.width v) (r := []) (by simpa using hr.1)
  have hq : s.peek (activeStack m) 2 m.width = BitVec.ofNat 16 v := State.peek_contents (l := pre) (r := [p8]) hv (by simpa using hr.1)
  obtain ⟨h0, h1, h2, h3⟩ := hr.counts
  simp only [length_valueBytes, List.length_singleton, List.length_append, List.length_nil] at h0 h1 h3
  have hlt := (s.stack (activeStack m)).sp.isLt
  have he := StackEffect.put_none hr
  simp only [length_valueBytes, List.length_singleton, List.length_append] at he
  constructor
  · simp only [exec_stack, opMeaning, deoOp]
    rw [State.reserving_ok (by omega) (by unfold newPointer; split <;> omega)]
    cases hk : m.keep
    · simp only [Bool.false_eq_true, if_false]
      rw [State.reserving_ok]
      · simp only [deoWrite, hp, hq]
        congr 2
        simp only [s2, hk, newPointer]
        have : ∀ (x) (a b : Stack), (s.setStack x a).setStack x b = s.setStack x b := by
          intro x a b
          cases x <;> rfl
        rw [this]
        simp [Stack.setSp]
        congr 2
        congr 1
        omega
      · simp [newPointer]; omega
      · simp [newPointer]; omega
    · rw [if_pos rfl, if_neg (by omega)]
      simp only [deoWrite, hp, hq, s2, hk, newPointer]
      simp
  · simpa [s2] using he

/-- A write to the Console puts the value's bytes into its ports (R91). -/
theorem State.writePorts_console {s : State} {d : BitVec 4} {r : Vector Byte 16} (h : s.slot d = some (.console r))
    (p : BitVec 4) (w : Width) (v : Nat) :
    ∃ r', s.writePorts d p w (BitVec.ofNat 16 v) = s.setSlot d (some (.console r')) ∧
      (∀ q : BitVec 4, r'[q.toNat]'q.isLt = (portWritten p w v q).getD (r[q.toNat]'q.isLt)) := by
  have h1 : loByte (BitVec.ofNat 16 v) = BitVec.ofNat 8 v := by apply BitVec.eq_of_toNat_eq; simp
  cases w
  · refine ⟨r.set p.toNat (loByte (BitVec.ofNat 16 v)) p.isLt, by simp only [State.writePorts, State.writePort_console _ h], ?_⟩
    intro q
    simp only [Vector.getElem_set, portWritten, h1]
    by_cases hq : q = p
    · simp [hq]
    · have : ¬ p.toNat = q.toNat := fun h => hq (BitVec.eq_of_toNat_eq h.symm)
      simp [hq, this]
  · have h2 : hiByte (BitVec.ofNat 16 v) = BitVec.ofNat 8 (v / 256) := by apply BitVec.eq_of_toNat_eq; simp; omega
    refine ⟨_,
      by
        simp only [State.writePorts, State.writePort_console _ h]
        rw [State.writePort_console _ (State.slot_setSlot_same ..)]
        simp [State.setSlot, State.setDev]
        rfl, ?_⟩
    intro q
    have hpp : p + 1 ≠ p := by revert p; decide
    simp only [Vector.getElem_set, portWritten, h1, h2]
    by_cases hq : q = p
    · subst hq
      have : ¬ (q + 1).toNat = q.toNat := fun h => hpp (BitVec.eq_of_toNat_eq h)
      simp at this
      simp [this]
    · have h3 : ¬ p.toNat = q.toNat := fun h => hq (BitVec.eq_of_toNat_eq h.symm)
      by_cases hq' : q = p + 1
      · subst hq'; simp
      · have h4 : ¬ (p + 1).toNat = q.toNat := fun h => hq' (BitVec.eq_of_toNat_eq h.symm)
        have h5 : ¬ (p.toNat + 1) % 16 = q.toNat := by simpa using h4
        simp only [if_neg h5, if_neg h3, if_neg hq, if_neg hq']; rfl

/-- A byte write to the System device (R25, R115). -/
theorem State.writePort_system_effect {s : State} {d : BitVec 4} {r : SystemPorts} (h : s.slot d = some (.system r))
    (p : BitVec 4) (v : Byte) :
    ∃ r', (s.writePort d p v).slot d = some (.system r') ∧
      (∀ q, q ≠ 4 → q ≠ 5 → r'.read q = if q = p then v else r.read q) ∧
      (s.writePort d p v).ws.sp = (if p = 4 then v else s.ws.sp) ∧
      (s.writePort d p v).rs.sp = (if p = 5 then v else s.rs.sp) := by
  rw [State.writePort_system _ h]
  unfold State.writeSystem
  by_cases h4 : p = 4
  · subst h4
    refine ⟨r, by simpa using h, ?_, by simp, by simp⟩
    intro q hq _; rw [if_neg hq]
  · rw [if_neg h4]
    by_cases h5 : p = 5
    · subst h5
      refine ⟨r, by simpa using h, ?_, by simp, by simp⟩
      intro q _ hq; rw [if_neg hq]
    · rw [if_neg h5]
      refine ⟨r.write p v, by simp, fun q a b => SystemPorts.read_write r p q v h4 h5 a b,
        by rw [if_neg h4]; rfl, by rw [if_neg h5]; rfl⟩

/-- A write of either width to the System device (R25, R91, R115). -/
theorem State.writePorts_system_effect {s : State} {d : BitVec 4} {r : SystemPorts} (h : s.slot d = some (.system r))
    (p : BitVec 4) (w : Width) (v : Nat) :
    ∃ r', (s.writePorts d p w (BitVec.ofNat 16 v)).slot d = some (.system r') ∧
      (∀ q, q ≠ 4 → q ≠ 5 → r'.read q = (portWritten p w v q).getD (r.read q)) ∧
      (s.writePorts d p w (BitVec.ofNat 16 v)).ws.sp = (portWritten p w v 4).getD s.ws.sp ∧
      (s.writePorts d p w (BitVec.ofNat 16 v)).rs.sp = (portWritten p w v 5).getD s.rs.sp := by
  have h1 : loByte (BitVec.ofNat 16 v) = BitVec.ofNat 8 v := by apply BitVec.eq_of_toNat_eq; simp
  have h2 : hiByte (BitVec.ofNat 16 v) = BitVec.ofNat 8 (v / 256) := by apply BitVec.eq_of_toNat_eq; simp; omega
  have hpp : p + 1 ≠ p := by revert p; decide
  cases w
  · obtain ⟨r', a, b, c, e⟩ := State.writePort_system_effect h p (BitVec.ofNat 8 v)
    simp only [State.writePorts, h1]
    refine ⟨r', a, ?_, ?_, ?_⟩
    · intro q q4 q5; rw [b q q4 q5]; simp only [portWritten]; split <;> rfl
    · rw [c]; simp only [portWritten, eq_comm (a := p)]; split <;> rfl
    · rw [e]; simp only [portWritten, eq_comm (a := p)]; split <;> rfl
  · obtain ⟨r', a, b, c, e⟩ := State.writePort_system_effect h p (BitVec.ofNat 8 (v / 256))
    obtain ⟨r'', a', b', c', e'⟩ := State.writePort_system_effect a (p + 1) (BitVec.ofNat 8 v)
    simp only [State.writePorts, h1, h2]
    have key : ∀ (q : BitVec 4) (x y z : Byte), (if q = p + 1 then x else if q = p then y else z) =
        ((if q = p then some y else if q = p + 1 then some x else none).getD z) := by
      intro q x y z
      by_cases hq : q = p
      · subst hq; simp only [if_neg hpp.symm, if_true]; rfl
      · by_cases hq' : q = p + 1
        · simp only [if_neg hq, if_pos hq']; rfl
        · simp only [if_neg hq, if_neg hq']; rfl
    refine ⟨r'', a', ?_, ?_, ?_⟩
    · intro q q4 q5; rw [b' q q4 q5, b q q4 q5]; exact key q ..
    · rw [c', c]; simp only [portWritten, eq_comm (a := p), eq_comm (a := p + 1)]; exact key 4 ..
    · rw [e', e]; simp only [portWritten, eq_comm (a := p), eq_comm (a := p + 1)]; exact key 5 ..

end Sys2Proof.Machine
end

