-- ==== Sys2Proof/Laws/Outcome.lean ====
section
/-! SUPPORT. What a step can do, said once for all 256 arms of `exec` (60_exceptions.md R106-R108): halt, fault, fault at a second check,
complete on the stacks alone, store, call a device for input, call a device for output. -/

namespace Sys2Proof.Machine

/-- The last byte of each buffer is as it was (10_state.md R17). -/
def TopBytesKept (s t : State) : Prop := t.ws.dat[255] = s.ws.dat[255] ∧ t.rs.dat[255] = s.rs.dat[255]

/-- Every way `exec i s` can end. -/
inductive Outcome (i : Instr) (s : State) : State → Prop where
  | halted : i = .brk → Outcome i s (s.stopAt s.pc .halted)
  | faulted (kind : FaultKind) : i ≠ .brk →
      Outcome i s (s.stopAt (s.pc + BitVec.ofNat 16 ((encode i).length - 1)) (.fault kind))
  | faultedAtSecondCheck (op : Op) (m : Mode) (kind : FaultKind) (n : Nat) :
      i = .stack op m → m.keep = false → n ≤ (s.stack (activeStack m)).sp.toNat →
      ((op = .jsr ∨ op = .sth) ∧ kind = .overflow ∧ n = m.width.bytes ∨ op = .deo ∧ kind = .underflow ∧ n = 1) →
      Outcome i s ((s.setStack (activeStack m) ((s.stack (activeStack m)).setSp ((s.stack (activeStack m)).sp.toNat - n))).stopAt
        s.pc (.fault kind))
  | completed {t : State} : i ≠ .brk → t.status = .cont → SameOutside s t → TopBytesKept s t → Outcome i s t
  | stored {u : State} (op : Op) (m : Mode) (a v : Short) : (op = .stz ∨ op = .str ∨ op = .sta) → i = .stack op m →
      SameOutside s u → TopBytesKept s u → Outcome i s ((u.memWrite a m.width v).setStatus .cont)
  | input {u : State} (m : Mode) (d p : BitVec 4) : i = .stack .dei m → SameOutside s u → TopBytesKept s u →
      m.width.bytes ≤ (u.stack (activeStack m)).sp.toNat →
      Outcome i s (((u.devRead d p m.width).2.put (activeStack m) 1 m.width (u.devRead d p m.width).1).setStatus .cont)
  | output {u : State} (m : Mode) (d p : BitVec 4) (v : Short) : i = .stack .deo m → SameOutside s u → TopBytesKept s u →
      Outcome i s ((u.devWrite d p m.width v).setStatus .cont)

/-! ### The last byte of a buffer -/

theorem TopBytesKept.refl (s : State) : TopBytesKept s s := ⟨rfl, rfl⟩

theorem TopBytesKept.trans {s t u : State} (h : TopBytesKept s t) (h' : TopBytesKept t u) : TopBytesKept s u :=
  ⟨h'.1.trans h.1, h'.2.trans h.2⟩

theorem TopBytesKept.setStack {s t : State} (h : TopBytesKept s t) (x : StackSel) {st : Stack}
    (hst : st.dat[255] = (t.stack x).dat[255]) : TopBytesKept s (t.setStack x st) := by
  cases x
  · exact ⟨hst.trans h.1, h.2⟩
  · exact ⟨h.1, hst.trans h.2⟩

theorem Stack.putByte_top (st : Stack) (i : Nat) (v : Byte) (hi : 1 ≤ i) (h : i ≤ st.sp.toNat) :
    (st.putByte i v).dat[255] = st.dat[255] :=
  Stack.getElem_putByte_ne h _ (by have := st.sp.isLt; omega)

theorem Stack.put_top (st : Stack) (i : Nat) (w : Width) (v : Short) (hi : 1 ≤ i) (h : i + w.bytes ≤ st.sp.toNat + 1) :
    (st.put i w v).dat[255] = st.dat[255] := by
  cases w with
  | byte => exact Stack.putByte_top st i _ hi (by simp only [Width.bytes] at h; omega)
  | short =>
    simp only [Width.bytes] at h
    simp only [Stack.put]
    rw [Stack.putByte_top _ _ _ (by omega) (by rw [Stack.putByte_sp]; omega), Stack.putByte_top _ _ _ hi (by omega)]

theorem TopBytesKept.put {s t : State} (h : TopBytesKept s t) (x : StackSel) (i : Nat) (w : Width) (v : Short) (hi : 1 ≤ i)
    (hn : i + w.bytes ≤ (t.stack x).sp.toNat + 1) : TopBytesKept s (t.put x i w v) :=
  h.setStack x (Stack.put_top _ _ _ _ hi hn)

/-! ### One check -/

/-- What a capacity check hands on: the state with the pointer of stack `x` at `n` and nothing else changed. -/
structure Passed (s s' : State) (x : StackSel) (n : Nat) : Prop where
  eq : s' = s.setStack x ((s.stack x).setSp n)
  le : n ≤ 255

theorem Passed.sp {s s' : State} {x : StackSel} {n : Nat} (h : Passed s s' x n) : (s'.stack x).sp.toNat = n := by
  rw [h.eq, State.stack_setStack, Stack.setSp_toNat h.le]

theorem Passed.outside {s s' : State} {x : StackSel} {n : Nat} (h : Passed s s' x n) : SameOutside s s' := by
  rw [h.eq]
  simp [SameOutside]

theorem Passed.top {s s' : State} {x : StackSel} {n : Nat} (h : Passed s s' x n) : TopBytesKept s s' := by
  rw [h.eq]
  exact (TopBytesKept.refl s).setStack x rfl

theorem Passed.pc {s s' : State} {x : StackSel} {n : Nat} (h : Passed s s' x n) : s'.pc = s.pc := by
  rw [h.eq, State.setStack_pc]

theorem Passed.other {s s' : State} {x : StackSel} {n : Nat} (h : Passed s s' x n) : s'.stack x.other = s.stack x.other := by
  rw [h.eq, State.stack_other_setStack]

/-- A check that leaves the pointer where it is changes nothing. -/
theorem Passed.same {s s' : State} {x : StackSel} (h : Passed s s' x (s.stack x).sp.toNat) : s' = s := by
  rw [h.eq, Stack.setSp]
  cases x <;> simp [State.setStack, State.stack]

/-- A checked operation ends as its fault outcomes and its continuation allow. -/
theorem State.reserving_outcome {i : Instr} {s0 s : State} {x : StackSel} {c p : Nat} {k : Bool} {f : State → Result}
    (hu : (s.stack x).sp.toNat < c → Outcome i s0 (s.setStatus (.fault .underflow)))
    (ho : 255 < newPointer (s.stack x).sp.toNat c p k → Outcome i s0 (s.setStatus (.fault .overflow)))
    (hf : ∀ s' n, c ≤ (s.stack x).sp.toNat → n = newPointer (s.stack x).sp.toNat c p k → Passed s s' x n →
      ∃ t, f s' = .next t ∧ Outcome i s0 t) :
    ∃ t, s.reserving x c p k f = .next t ∧ Outcome i s0 t := by
  rcases State.reserving_cases s x c p k f with ⟨h, e⟩ | ⟨-, h, e⟩ | ⟨h, h', e⟩
  · exact ⟨_, e, hu h⟩
  · exact ⟨_, e, ho h⟩
  · obtain ⟨t, ht, h2⟩ := hf _ _ h rfl ⟨rfl, h'⟩
    exact ⟨t, e.trans ht, h2⟩

theorem newPointer_ge (sp c p : Nat) (k : Bool) : p ≤ newPointer sp c p k := by
  unfold newPointer
  split <;> omega

theorem stack_ne_brk (op : Op) (m : Mode) : Instr.stack op m ≠ .brk := by
  intro h
  have := congrArg formOf h
  rw [formOf_stack] at this
  cases this

/-- A fault of a form before any change: the pc is past its one byte. -/
theorem Outcome.formFault (op : Op) (m : Mode) (s : State) (kind : FaultKind) :
    Outcome (.stack op m) s (s.setStatus (.fault kind)) := by
  have h := Outcome.faulted (i := .stack op m) (s := s) kind (stack_ne_brk op m)
  rw [length_encode_stack] at h
  simpa [State.stopAt, State.setPc] using h

/-- A form that makes one check and then completes on the stacks alone. -/
theorem State.reserving_completes {op : Op} {m : Mode} {s : State} {x : StackSel} {c p : Nat} {k : Bool} {f : State → Result}
    (hf : ∀ s' n, p ≤ n → Passed s s' x n →
      ∃ t, f s' = .next t ∧ t.status = .cont ∧ SameOutside s t ∧ TopBytesKept s t) :
    ∃ t, s.reserving x c p k f = .next t ∧ Outcome (.stack op m) s t := by
  refine State.reserving_outcome (fun _ => .formFault op m s _) (fun _ => .formFault op m s _) fun s' n _ hn hp => ?_
  obtain ⟨t, h1, h2, h3, h4⟩ := hf s' n (hn ▸ newPointer_ge ..) hp
  exact ⟨t, h1, .completed (stack_ne_brk op m) h2 h3 h4⟩

/-- The same where the continuation only puts a value on the checked stack. -/
theorem State.reserving_puts {op : Op} {m : Mode} {s : State} {x : StackSel} {c : Nat} {k : Bool} {w : Width}
    {v : State → Short} :
    ∃ t, s.reserving x c w.bytes k (fun s' => (s'.put x 1 w (v s')).complete) = .next t ∧ Outcome (.stack op m) s t := by
  refine State.reserving_completes fun s' n hn hp => ⟨_, rfl, rfl, ?_, ?_⟩
  · simpa [SameOutside] using hp.outside
  · exact hp.top.put x 1 w _ (by omega) (by rw [hp.sp]; omega)

theorem State.raise_form (op : Op) (m : Mode) (s : State) (kind : FaultKind) :
    ∃ t, s.raise kind = .next t ∧ Outcome (.stack op m) s t :=
  ⟨_, rfl, .formFault op m s kind⟩

/-! ### The operations that do more than one check and one put -/

theorem binaryOp_outcome (g : Short → Short → Short) (op : Op) (m : Mode) (s : State) :
    ∃ t, binaryOp g m s = .next t ∧ Outcome (.stack op m) s t := by
  unfold binaryOp
  exact State.reserving_puts

theorem compareOp_outcome (rel : Short → Short → Bool) (op : Op) (m : Mode) (s : State) :
    ∃ t, compareOp rel m s = .next t ∧ Outcome (.stack op m) s t := by
  unfold compareOp
  exact State.reserving_puts (w := .byte)

theorem loadByteAddr_outcome (addr : Byte → Short) (op : Op) (m : Mode) (s : State) :
    ∃ t, loadByteAddr addr m s = .next t ∧ Outcome (.stack op m) s t := by
  unfold loadByteAddr
  exact State.reserving_puts

theorem State.reserving_stores {op : Op} {m : Mode} {s : State} {x : StackSel} {c : Nat} {k : Bool} {a v : Short}
    (hop : op = .stz ∨ op = .str ∨ op = .sta) :
    ∃ t, s.reserving x c 0 k (fun s' => (s'.memWrite a m.width v).complete) = .next t ∧ Outcome (.stack op m) s t :=
  State.reserving_outcome (fun _ => .formFault op m s _) (fun _ => .formFault op m s _) fun _ _ _ _ hp =>
    ⟨_, rfl, .stored op m a v hop rfl hp.outside hp.top⟩

theorem subOp_outcome (m : Mode) (s : State) : ∃ t, subOp m s = .next t ∧ Outcome (.stack .sub m) s t := by
  unfold subOp
  split <;> exact binaryOp_outcome _ _ m s

theorem divOp_outcome (m : Mode) (s : State) : ∃ t, divOp m s = .next t ∧ Outcome (.stack .div m) s t := by
  unfold divOp
  dsimp only
  split
  · exact State.raise_form _ m s _
  · split
    · exact State.raise_form _ m s _
    · exact binaryOp_outcome _ _ m s

theorem jcnOp_outcome (m : Mode) (s : State) : ∃ t, jcnOp m s = .next t ∧ Outcome (.stack .jcn m) s t := by
  unfold jcnOp
  refine State.reserving_completes fun s' n hn hp => ?_
  split
  · exact ⟨_, rfl, rfl, by simpa [SameOutside] using hp.outside, hp.top⟩
  · exact ⟨_, rfl, rfl, hp.outside, hp.top⟩

/-- JSR and STH: the active stack is checked, then the other one. -/
theorem State.reserving_twice {op : Op} {m : Mode} {s : State} {p : Nat} {f : State → Result} (hop : op = .jsr ∨ op = .sth)
    (hf : ∀ s1 s2 n n', p ≤ n' → Passed s s1 (activeStack m) n → Passed s1 s2 (otherStack m) n' →
      ∃ t, f s2 = .next t ∧ t.status = .cont ∧ SameOutside s t ∧ TopBytesKept s t) :
    ∃ t, s.reserving (activeStack m) m.width.bytes 0 m.keep (fun s1 => s1.reserving (otherStack m) 0 p false f) = .next t ∧
      Outcome (.stack op m) s t := by
  refine State.reserving_outcome (fun _ => .formFault op m s _) (fun _ => .formFault op m s _) fun s1 n hc hn hp => ?_
  refine State.reserving_outcome (fun h => absurd h (Nat.not_lt_zero _)) (fun _ => ?_) fun s2 n' _ hn' hp' => ?_
  · cases hk : m.keep with
    | true =>
      have hs : s1 = s := by
        refine Passed.same (x := activeStack m) ?_
        have : n = (s.stack (activeStack m)).sp.toNat := by simpa [newPointer, hk] using hn
        exact this ▸ hp
      rw [hs]
      exact .formFault op m s _
    | false =>
      have h := Outcome.faultedAtSecondCheck (i := .stack op m) (s := s) op m .overflow m.width.bytes rfl hk hc (.inl ⟨hop, rfl, rfl⟩)
      have hn2 : n = (s.stack (activeStack m)).sp.toNat - m.width.bytes := by simpa [newPointer, hk] using hn
      rw [hp.eq, hn2]
      have e : ∀ (u : State), u.pc = s.pc → u.stopAt s.pc (.fault .overflow) = u.setStatus (.fault .overflow) := by
        rintro u hu
        rw [← hu]
        rfl
      rwa [e _ (State.setStack_pc ..)] at h
  · obtain ⟨t, h1, h2, h3, h4⟩ := hf s1 s2 n n' (hn' ▸ newPointer_ge ..) hp hp'
    exact ⟨t, h1, .completed (stack_ne_brk op m) h2 h3 h4⟩

theorem SameOutside.trans {s t u : State} (h : SameOutside s t) (h' : SameOutside t u) : SameOutside s u :=
  ⟨h'.1.trans h.1, h'.2.1.trans h.2.1, h'.2.2.1.trans h.2.2.1, h'.2.2.2.trans h.2.2.2⟩

theorem jsrOp_outcome (m : Mode) (s : State) : ∃ t, jsrOp m s = .next t ∧ Outcome (.stack .jsr m) s t := by
  refine State.reserving_twice (.inl rfl) fun s1 s2 n n' hn hp hp' => ⟨_, rfl, rfl, ?_, ?_⟩
  · simpa [SameOutside] using hp.outside.trans hp'.outside
  · exact (hp.top.trans hp'.top).put _ 1 _ _ (by omega) (by rw [hp'.sp]; simp only [Width.bytes]; omega)

theorem sthOp_outcome (m : Mode) (s : State) : ∃ t, sthOp m s = .next t ∧ Outcome (.stack .sth m) s t := by
  refine State.reserving_twice (.inr rfl) fun s1 s2 n n' hn hp hp' => ⟨_, rfl, rfl, ?_, ?_⟩
  · simpa [SameOutside] using hp.outside.trans hp'.outside
  · exact (hp.top.trans hp'.top).put _ 1 _ _ (by omega) (by rw [hp'.sp]; omega)

theorem deiOp_outcome (m : Mode) (s : State) : ∃ t, deiOp m s = .next t ∧ Outcome (.stack .dei m) s t :=
  State.reserving_outcome (fun _ => .formFault .dei m s _) (fun _ => .formFault .dei m s _) fun _ _ _ hn hp =>
    ⟨_, rfl, .input m _ _ rfl hp.outside hp.top (by rw [hp.sp, hn]; exact newPointer_ge ..)⟩

theorem deoOp_outcome (m : Mode) (s : State) : ∃ t, deoOp m s = .next t ∧ Outcome (.stack .deo m) s t := by
  have hw : ∀ s' : State, SameOutside s s' → TopBytesKept s s' →
      ∃ t, deoWrite m s s' = .next t ∧ Outcome (.stack .deo m) s t :=
    fun s' h1 h2 => ⟨_, rfl, .output m _ _ _ rfl h1 h2⟩
  unfold deoOp
  refine State.reserving_outcome (fun _ => .formFault .deo m s _) (fun _ => .formFault .deo m s _) fun s1 n hc hn hp => ?_
  cases hk : m.keep with
  | true =>
    have hs : s1 = s := by
      refine Passed.same (x := activeStack m) ?_
      have : n = (s.stack (activeStack m)).sp.toNat := by simpa [newPointer, hk] using hn
      exact this ▸ hp
    rw [if_pos rfl]
    split
    · rw [hs]
      exact State.raise_form .deo m s _
    · exact hw s1 hp.outside hp.top
  | false =>
    rw [if_neg (by decide)]
    have hn2 : n = (s.stack (activeStack m)).sp.toNat - 1 := by simpa [newPointer, hk] using hn
    refine State.reserving_outcome (fun _ => ?_) (fun h => ?_) fun s2 _ _ _ hp' =>
      hw s2 (hp.outside.trans hp'.outside) (hp.top.trans hp'.top)
    · have h := Outcome.faultedAtSecondCheck (i := .stack .deo m) (s := s) .deo m .underflow 1 rfl hk hc (.inr ⟨rfl, rfl, rfl⟩)
      rw [hp.eq, hn2]
      have e : ∀ (u : State), u.pc = s.pc → u.stopAt s.pc (.fault .underflow) = u.setStatus (.fault .underflow) := by
        rintro u hu
        rw [← hu]
        rfl
      rwa [e _ (State.setStack_pc ..)] at h
    · simp only [newPointer, hp.sp, Bool.false_eq_true, if_false] at h
      have := hp.le
      omega

/-! ### Every instruction -/

/-- Every form ends as `Outcome` says. -/
theorem opMeaning_outcome (op : Op) (m : Mode) (s : State) :
    ∃ t, opMeaning op m s = .next t ∧ Outcome (.stack op m) s t := by
  cases op
  case inc =>
    show ∃ t, incOp m s = .next t ∧ _
    unfold incOp
    exact State.reserving_puts
  case pop =>
    show ∃ t, popOp m s = .next t ∧ _
    unfold popOp
    exact State.reserving_completes fun s' _ _ hp => ⟨_, rfl, rfl, hp.outside, hp.top⟩
  case nip =>
    show ∃ t, nipOp m s = .next t ∧ _
    unfold nipOp
    exact State.reserving_puts
  case swp =>
    show ∃ t, swpOp m s = .next t ∧ _
    unfold swpOp
    refine State.reserving_completes fun s' n hn hp => ⟨_, rfl, rfl, ?_, ?_⟩
    · simpa [SameOutside] using hp.outside
    · refine (hp.top.put _ (m.width.bytes + 1) _ _ (by omega) (by rw [hp.sp]; omega)).put _ 1 _ _ (by omega) ?_
      rw [State.stack_put, Stack.put_sp, hp.sp]
      omega
  case rot =>
    show ∃ t, rotOp m s = .next t ∧ _
    unfold rotOp
    refine State.reserving_completes fun s' n hn hp => ⟨_, rfl, rfl, ?_, ?_⟩
    · simpa [SameOutside] using hp.outside
    · refine ((hp.top.put _ (2 * m.width.bytes + 1) _ _ (by omega) (by rw [hp.sp]; omega)).put _ (m.width.bytes + 1) _ _
        (by omega) ?_).put _ 1 _ _ (by omega) ?_ <;> simp only [State.stack_put, Stack.put_sp, hp.sp] <;> omega
  case dup =>
    show ∃ t, dupOp m s = .next t ∧ _
    unfold dupOp
    refine State.reserving_completes fun s' n hn hp => ⟨_, rfl, rfl, ?_, ?_⟩
    · simpa [SameOutside] using hp.outside
    · refine (hp.top.put _ (m.width.bytes + 1) _ _ (by omega) (by rw [hp.sp]; omega)).put _ 1 _ _ (by omega) ?_
      rw [State.stack_put, Stack.put_sp, hp.sp]
      omega
  case ovr =>
    show ∃ t, ovrOp m s = .next t ∧ _
    unfold ovrOp
    refine State.reserving_completes fun s' n hn hp => ⟨_, rfl, rfl, ?_, ?_⟩
    · simpa [SameOutside] using hp.outside
    · refine ((hp.top.put _ (2 * m.width.bytes + 1) _ _ (by omega) (by rw [hp.sp]; omega)).put _ (m.width.bytes + 1) _ _
        (by omega) ?_).put _ 1 _ _ (by omega) ?_ <;> simp only [State.stack_put, Stack.put_sp, hp.sp] <;> omega
  case equ => exact compareOp_outcome _ _ m s
  case neq => exact compareOp_outcome _ _ m s
  case gth => exact compareOp_outcome _ _ m s
  case lth => exact compareOp_outcome _ _ m s
  case jmp =>
    show ∃ t, jmpOp m s = .next t ∧ _
    unfold jmpOp
    exact State.reserving_completes fun s' _ _ hp => ⟨_, rfl, rfl, by simpa [SameOutside] using hp.outside, hp.top⟩
  case jcn => exact jcnOp_outcome m s
  case jsr => exact jsrOp_outcome m s
  case sth => exact sthOp_outcome m s
  case ldz => exact loadByteAddr_outcome _ _ m s
  case stz =>
    show ∃ t, stzOp m s = .next t ∧ _
    unfold stzOp storeByteAddr
    exact State.reserving_stores (.inl rfl)
  case ldr => exact loadByteAddr_outcome _ _ m s
  case str =>
    show ∃ t, strOp m s = .next t ∧ _
    unfold strOp storeByteAddr
    exact State.reserving_stores (.inr (.inl rfl))
  case lda =>
    show ∃ t, ldaOp m s = .next t ∧ _
    unfold ldaOp
    exact State.reserving_puts
  case sta =>
    show ∃ t, staOp m s = .next t ∧ _
    unfold staOp
    exact State.reserving_stores (.inr (.inr rfl))
  case dei => exact deiOp_outcome m s
  case deo => exact deoOp_outcome m s
  case add => exact binaryOp_outcome _ _ m s
  case sub => exact subOp_outcome m s
  case mul => exact binaryOp_outcome _ _ m s
  case div => exact divOp_outcome m s
  case and => exact binaryOp_outcome _ _ m s
  case or => exact binaryOp_outcome _ _ m s
  case xor => exact binaryOp_outcome _ _ m s
  case sft =>
    show ∃ t, sftOp m s = .next t ∧ _
    unfold sftOp
    exact State.reserving_puts

/-- A literal ends as `Outcome` says. -/
theorem pushInline_outcome {i : Instr} (x : StackSel) (w : Width) (v : Short) (s : State) (hi : i ≠ .brk)
    (hl : (encode i).length - 1 = w.bytes) : ∃ t, pushInline x w v s = .next t ∧ Outcome i s t := by
  have hfault : ∀ kind, Outcome i s ((s.skip w.bytes).setStatus (.fault kind)) := fun kind => by
    have h := Outcome.faulted (i := i) (s := s) kind hi
    rwa [hl] at h
  unfold pushInline
  refine State.reserving_outcome (fun _ => hfault _) (fun _ => hfault _) fun s' n _ hn hp =>
    ⟨(s'.put x 1 w v).setStatus .cont, rfl, .completed hi rfl ?_ ?_⟩
  · simpa [SameOutside] using hp.outside
  · have := newPointer_ge ((s.skip w.bytes).stack x).sp.toNat 0 w.bytes true
    exact (hp.top.put x 1 w v (by omega) (by rw [hp.sp]; omega) : _)

/-- Every instruction ends in a next state, as `Outcome` says. -/
theorem exec_outcome (i : Instr) (s : State) : ∃ t, exec i s = .next t ∧ Outcome i s t := by
  rcases instr_cases_form i with
    rfl | ⟨d, rfl⟩ | ⟨d, rfl⟩ | ⟨d, rfl⟩ | ⟨v, rfl⟩ | ⟨v, rfl⟩ | ⟨v, rfl⟩ | ⟨v, rfl⟩ | ⟨op, m, rfl⟩
  · exact ⟨_, rfl, .halted rfl⟩
  · have hi : Instr.jci d ≠ .brk := by simp
    show ∃ t, execJci d s = .next t ∧ _
    unfold execJci
    refine State.reserving_outcome (fun _ => .faulted .underflow hi) (fun _ => .faulted .overflow hi) fun s' n _ hn hp => ?_
    split
    · exact ⟨_, rfl, .completed hi rfl (by simpa [SameOutside] using hp.outside) hp.top⟩
    · exact ⟨_, rfl, .completed hi rfl hp.outside hp.top⟩
  · exact ⟨_, rfl, .completed (by simp) rfl ⟨rfl, rfl, rfl, rfl⟩ (TopBytesKept.refl s)⟩
  · have hi : Instr.jsi d ≠ .brk := by simp
    show ∃ t, execJsi d s = .next t ∧ _
    unfold execJsi
    refine State.reserving_outcome (fun _ => .faulted .underflow hi) (fun _ => .faulted .overflow hi) fun s' n _ hn hp => ?_
    refine ⟨_, rfl, .completed hi rfl ?_ ?_⟩
    · simpa [SameOutside] using hp.outside
    · have := newPointer_ge ((s.skip 2).stack .rs).sp.toNat 0 2 false
      exact (hp.top.put .rs 1 .short _ (by omega) (by rw [hp.sp]; simp only [Width.bytes]; omega) : _)
  · exact pushInline_outcome .ws .byte _ s (by simp) rfl
  · exact pushInline_outcome .ws .short _ s (by simp) rfl
  · exact pushInline_outcome .rs .byte _ s (by simp) rfl
  · exact pushInline_outcome .rs .short _ s (by simp) rfl
  · rw [exec_stack]
    exact opMeaning_outcome op m s

/-- The one outcome of an instruction. -/
theorem exec_outcome_of_eq {i : Instr} {s t : State} (h : exec i s = .next t) : Outcome i s t := by
  obtain ⟨t', h', ho⟩ := exec_outcome i s
  rw [h] at h'
  cases h'
  exact ho

end Sys2Proof.Machine
end

