-- ==== Sys2Proof/Laws/PerInstr.lean ====
section
/-! SUPPORT. Statements made of every instruction, one lemma per constructor.  `EncodedLength`: the encoding is one whole instruction, of
the length its first byte tells (30_encoding.md R52). -/

namespace Sys2Proof.Laws.EncodedLength

/-- The bytes of the instruction are one whole instruction. -/
def Statement (i : Instr) : Prop := wordsWf (encode i) = true

theorem brk : Statement .brk := rfl
theorem inc : Statement .inc := rfl
theorem pop : Statement .pop := rfl
theorem nip : Statement .nip := rfl
theorem swp : Statement .swp := rfl
theorem rot : Statement .rot := rfl
theorem dup : Statement .dup := rfl
theorem ovr : Statement .ovr := rfl
theorem equ : Statement .equ := rfl
theorem neq : Statement .neq := rfl
theorem gth : Statement .gth := rfl
theorem lth : Statement .lth := rfl
theorem jmp : Statement .jmp := rfl
theorem jcn : Statement .jcn := rfl
theorem jsr : Statement .jsr := rfl
theorem sth : Statement .sth := rfl
theorem ldz : Statement .ldz := rfl
theorem stz : Statement .stz := rfl
theorem ldr : Statement .ldr := rfl
theorem str : Statement .str := rfl
theorem lda : Statement .lda := rfl
theorem sta : Statement .sta := rfl
theorem dei : Statement .dei := rfl
theorem deo : Statement .deo := rfl
theorem add : Statement .add := rfl
theorem sub : Statement .sub := rfl
theorem mul : Statement .mul := rfl
theorem div : Statement .div := rfl
theorem and : Statement .and := rfl
theorem or : Statement .or := rfl
theorem xor : Statement .xor := rfl
theorem sft : Statement .sft := rfl
theorem jci (d : Short) : Statement (.jci d) := rfl
theorem inc2 : Statement .inc2 := rfl
theorem pop2 : Statement .pop2 := rfl
theorem nip2 : Statement .nip2 := rfl
theorem swp2 : Statement .swp2 := rfl
theorem rot2 : Statement .rot2 := rfl
theorem dup2 : Statement .dup2 := rfl
theorem ovr2 : Statement .ovr2 := rfl
theorem equ2 : Statement .equ2 := rfl
theorem neq2 : Statement .neq2 := rfl
theorem gth2 : Statement .gth2 := rfl
theorem lth2 : Statement .lth2 := rfl
theorem jmp2 : Statement .jmp2 := rfl
theorem jcn2 : Statement .jcn2 := rfl
theorem jsr2 : Statement .jsr2 := rfl
theorem sth2 : Statement .sth2 := rfl
theorem ldz2 : Statement .ldz2 := rfl
theorem stz2 : Statement .stz2 := rfl
theorem ldr2 : Statement .ldr2 := rfl
theorem str2 : Statement .str2 := rfl
theorem lda2 : Statement .lda2 := rfl
theorem sta2 : Statement .sta2 := rfl
theorem dei2 : Statement .dei2 := rfl
theorem deo2 : Statement .deo2 := rfl
theorem add2 : Statement .add2 := rfl
theorem sub2 : Statement .sub2 := rfl
theorem mul2 : Statement .mul2 := rfl
theorem div2 : Statement .div2 := rfl
theorem and2 : Statement .and2 := rfl
theorem or2 : Statement .or2 := rfl
theorem xor2 : Statement .xor2 := rfl
theorem sft2 : Statement .sft2 := rfl
theorem jmi (d : Short) : Statement (.jmi d) := rfl
theorem incr : Statement .incr := rfl
theorem popr : Statement .popr := rfl
theorem nipr : Statement .nipr := rfl
theorem swpr : Statement .swpr := rfl
theorem rotr : Statement .rotr := rfl
theorem dupr : Statement .dupr := rfl
theorem ovrr : Statement .ovrr := rfl
theorem equr : Statement .equr := rfl
theorem neqr : Statement .neqr := rfl
theorem gthr : Statement .gthr := rfl
theorem lthr : Statement .lthr := rfl
theorem jmpr : Statement .jmpr := rfl
theorem jcnr : Statement .jcnr := rfl
theorem jsrr : Statement .jsrr := rfl
theorem sthr : Statement .sthr := rfl
theorem ldzr : Statement .ldzr := rfl
theorem stzr : Statement .stzr := rfl
theorem ldrr : Statement .ldrr := rfl
theorem strr : Statement .strr := rfl
theorem ldar : Statement .ldar := rfl
theorem star : Statement .star := rfl
theorem deir : Statement .deir := rfl
theorem deor : Statement .deor := rfl
theorem addr : Statement .addr := rfl
theorem subr : Statement .subr := rfl
theorem mulr : Statement .mulr := rfl
theorem divr : Statement .divr := rfl
theorem andr : Statement .andr := rfl
theorem orr : Statement .orr := rfl
theorem xorr : Statement .xorr := rfl
theorem sftr : Statement .sftr := rfl
theorem jsi (d : Short) : Statement (.jsi d) := rfl
theorem inc2r : Statement .inc2r := rfl
theorem pop2r : Statement .pop2r := rfl
theorem nip2r : Statement .nip2r := rfl
theorem swp2r : Statement .swp2r := rfl
theorem rot2r : Statement .rot2r := rfl
theorem dup2r : Statement .dup2r := rfl
theorem ovr2r : Statement .ovr2r := rfl
theorem equ2r : Statement .equ2r := rfl
theorem neq2r : Statement .neq2r := rfl
theorem gth2r : Statement .gth2r := rfl
theorem lth2r : Statement .lth2r := rfl
theorem jmp2r : Statement .jmp2r := rfl
theorem jcn2r : Statement .jcn2r := rfl
theorem jsr2r : Statement .jsr2r := rfl
theorem sth2r : Statement .sth2r := rfl
theorem ldz2r : Statement .ldz2r := rfl
theorem stz2r : Statement .stz2r := rfl
theorem ldr2r : Statement .ldr2r := rfl
theorem str2r : Statement .str2r := rfl
theorem lda2r : Statement .lda2r := rfl
theorem sta2r : Statement .sta2r := rfl
theorem dei2r : Statement .dei2r := rfl
theorem deo2r : Statement .deo2r := rfl
theorem add2r : Statement .add2r := rfl
theorem sub2r : Statement .sub2r := rfl
theorem mul2r : Statement .mul2r := rfl
theorem div2r : Statement .div2r := rfl
theorem and2r : Statement .and2r := rfl
theorem or2r : Statement .or2r := rfl
theorem xor2r : Statement .xor2r := rfl
theorem sft2r : Statement .sft2r := rfl
theorem lit (v : Byte) : Statement (.lit v) := rfl
theorem inck : Statement .inck := rfl
theorem popk : Statement .popk := rfl
theorem nipk : Statement .nipk := rfl
theorem swpk : Statement .swpk := rfl
theorem rotk : Statement .rotk := rfl
theorem dupk : Statement .dupk := rfl
theorem ovrk : Statement .ovrk := rfl
theorem equk : Statement .equk := rfl
theorem neqk : Statement .neqk := rfl
theorem gthk : Statement .gthk := rfl
theorem lthk : Statement .lthk := rfl
theorem jmpk : Statement .jmpk := rfl
theorem jcnk : Statement .jcnk := rfl
theorem jsrk : Statement .jsrk := rfl
theorem sthk : Statement .sthk := rfl
theorem ldzk : Statement .ldzk := rfl
theorem stzk : Statement .stzk := rfl
theorem ldrk : Statement .ldrk := rfl
theorem strk : Statement .strk := rfl
theorem ldak : Statement .ldak := rfl
theorem stak : Statement .stak := rfl
theorem deik : Statement .deik := rfl
theorem deok : Statement .deok := rfl
theorem addk : Statement .addk := rfl
theorem subk : Statement .subk := rfl
theorem mulk : Statement .mulk := rfl
theorem divk : Statement .divk := rfl
theorem andk : Statement .andk := rfl
theorem ork : Statement .ork := rfl
theorem xork : Statement .xork := rfl
theorem sftk : Statement .sftk := rfl
theorem lit2 (v : Short) : Statement (.lit2 v) := rfl
theorem inc2k : Statement .inc2k := rfl
theorem pop2k : Statement .pop2k := rfl
theorem nip2k : Statement .nip2k := rfl
theorem swp2k : Statement .swp2k := rfl
theorem rot2k : Statement .rot2k := rfl
theorem dup2k : Statement .dup2k := rfl
theorem ovr2k : Statement .ovr2k := rfl
theorem equ2k : Statement .equ2k := rfl
theorem neq2k : Statement .neq2k := rfl
theorem gth2k : Statement .gth2k := rfl
theorem lth2k : Statement .lth2k := rfl
theorem jmp2k : Statement .jmp2k := rfl
theorem jcn2k : Statement .jcn2k := rfl
theorem jsr2k : Statement .jsr2k := rfl
theorem sth2k : Statement .sth2k := rfl
theorem ldz2k : Statement .ldz2k := rfl
theorem stz2k : Statement .stz2k := rfl
theorem ldr2k : Statement .ldr2k := rfl
theorem str2k : Statement .str2k := rfl
theorem lda2k : Statement .lda2k := rfl
theorem sta2k : Statement .sta2k := rfl
theorem dei2k : Statement .dei2k := rfl
theorem deo2k : Statement .deo2k := rfl
theorem add2k : Statement .add2k := rfl
theorem sub2k : Statement .sub2k := rfl
theorem mul2k : Statement .mul2k := rfl
theorem div2k : Statement .div2k := rfl
theorem and2k : Statement .and2k := rfl
theorem or2k : Statement .or2k := rfl
theorem xor2k : Statement .xor2k := rfl
theorem sft2k : Statement .sft2k := rfl
theorem litr (v : Byte) : Statement (.litr v) := rfl
theorem inckr : Statement .inckr := rfl
theorem popkr : Statement .popkr := rfl
theorem nipkr : Statement .nipkr := rfl
theorem swpkr : Statement .swpkr := rfl
theorem rotkr : Statement .rotkr := rfl
theorem dupkr : Statement .dupkr := rfl
theorem ovrkr : Statement .ovrkr := rfl
theorem equkr : Statement .equkr := rfl
theorem neqkr : Statement .neqkr := rfl
theorem gthkr : Statement .gthkr := rfl
theorem lthkr : Statement .lthkr := rfl
theorem jmpkr : Statement .jmpkr := rfl
theorem jcnkr : Statement .jcnkr := rfl
theorem jsrkr : Statement .jsrkr := rfl
theorem sthkr : Statement .sthkr := rfl
theorem ldzkr : Statement .ldzkr := rfl
theorem stzkr : Statement .stzkr := rfl
theorem ldrkr : Statement .ldrkr := rfl
theorem strkr : Statement .strkr := rfl
theorem ldakr : Statement .ldakr := rfl
theorem stakr : Statement .stakr := rfl
theorem deikr : Statement .deikr := rfl
theorem deokr : Statement .deokr := rfl
theorem addkr : Statement .addkr := rfl
theorem subkr : Statement .subkr := rfl
theorem mulkr : Statement .mulkr := rfl
theorem divkr : Statement .divkr := rfl
theorem andkr : Statement .andkr := rfl
theorem orkr : Statement .orkr := rfl
theorem xorkr : Statement .xorkr := rfl
theorem sftkr : Statement .sftkr := rfl
theorem lit2r (v : Short) : Statement (.lit2r v) := rfl
theorem inc2kr : Statement .inc2kr := rfl
theorem pop2kr : Statement .pop2kr := rfl
theorem nip2kr : Statement .nip2kr := rfl
theorem swp2kr : Statement .swp2kr := rfl
theorem rot2kr : Statement .rot2kr := rfl
theorem dup2kr : Statement .dup2kr := rfl
theorem ovr2kr : Statement .ovr2kr := rfl
theorem equ2kr : Statement .equ2kr := rfl
theorem neq2kr : Statement .neq2kr := rfl
theorem gth2kr : Statement .gth2kr := rfl
theorem lth2kr : Statement .lth2kr := rfl
theorem jmp2kr : Statement .jmp2kr := rfl
theorem jcn2kr : Statement .jcn2kr := rfl
theorem jsr2kr : Statement .jsr2kr := rfl
theorem sth2kr : Statement .sth2kr := rfl
theorem ldz2kr : Statement .ldz2kr := rfl
theorem stz2kr : Statement .stz2kr := rfl
theorem ldr2kr : Statement .ldr2kr := rfl
theorem str2kr : Statement .str2kr := rfl
theorem lda2kr : Statement .lda2kr := rfl
theorem sta2kr : Statement .sta2kr := rfl
theorem dei2kr : Statement .dei2kr := rfl
theorem deo2kr : Statement .deo2kr := rfl
theorem add2kr : Statement .add2kr := rfl
theorem sub2kr : Statement .sub2kr := rfl
theorem mul2kr : Statement .mul2kr := rfl
theorem div2kr : Statement .div2kr := rfl
theorem and2kr : Statement .and2kr := rfl
theorem or2kr : Statement .or2kr := rfl
theorem xor2kr : Statement .xor2kr := rfl
theorem sft2kr : Statement .sft2kr := rfl

end Sys2Proof.Laws.EncodedLength
end

