-- ==== Sys2Proof/Tests/Slice0.lean ====
section
/-! SUPPORT. The model's own tests: what the well-formedness checks refuse, decoding of every opcode byte of the spec's table, one step
each of vectors of 95_test_vectors.md, the host's side, and for every statement with hypotheses a state and operands that meet them. -/

namespace Sys2Proof.Tests

open Sys2Proof.Machine

/-! ## Well-formedness -/

/-- Not one whole instruction: no byte, a literal cut short, a jump cut short, a byte too many. -/
theorem test_wordsWf_refuses : wordsWf [] = false ∧ wordsWf [0x80] = false ∧ wordsWf [0x20, 0x00] = false ∧
    wordsWf [0x01, 0x00] = false := by decide

theorem test_wordsWf_accepts : wordsWf [0x01] = true ∧ wordsWf [0x80, 0x05] = true ∧ wordsWf [0xA0, 0x12, 0x34] = true := by decide

/-- An image one byte longer than the room from 0x0100 to the top of memory is refused (R125, D24). -/
theorem test_imageWf_bound : imageWf (List.replicate 65281 0x00) = false ∧ imageWf (List.replicate 65280 0x00) = true := by
  simp only [imageWf, List.length_replicate]
  decide

/-- Memory out of order, with a repeated address, with a listed 0x00, with an address past the top. -/
theorem test_memory_wf_refuses : Memory.wf [(2, 1), (1, 1)] = false ∧ Memory.wf [(1, 1), (1, 1)] = false ∧
    Memory.wf [(1, 0)] = false ∧ Memory.wf [(65536, 1)] = false := by decide

theorem test_memory_wf_accepts : Memory.wf [(0, 1), (65535, 255)] = true := by decide

/-- Writing the unlisted value removes the entry (R29). -/
theorem test_memory_write_canonical : Memory.write [(1, 7)] 1 0 = [] ∧ Memory.write [(1, 7)] 0 9 = [(0, 9), (1, 7)] := by decide

/-- The decoder refuses no byte and a cut operand, by name. -/
theorem test_decode_refuses : decode [] = .error .empty ∧ decode [0x80] = .error (.truncated 0x80) ∧
    decode [0xA0, 0x12] = .error (.truncated 0xA0) := by decide

/-! ## Decoding: every byte of the opcode table, written from 30_encoding.md R45, R48, R49 -/

theorem test_decode_immediate :
    decodeTableWord 8 0x00 = some .brk ∧ decodeTableWord 24 0x050020 = some (.jci 0x0005) ∧
    decodeTableWord 24 0xF5FF20 = some (.jci 0xFFF5) ∧ decodeTableWord 24 0x008040 = some (.jmi 0x8000) ∧
    decodeTableWord 24 0x100060 = some (.jsi 0x0010) ∧ decodeTableWord 16 0x0580 = some (.lit 0x05) ∧
    decodeTableWord 24 0x3412A0 = some (.lit2 0x1234) ∧ decodeTableWord 16 0x7FC0 = some (.litr 0x7F) ∧
    decodeTableWord 24 0xCDABE0 = some (.lit2r 0xABCD) := by decide

/-- A word the table gives no operand bits has an operand of zeros. -/
theorem test_decode_operand_of_zeros : decodeTableWord 8 0x20 = some (.jci 0x0000) ∧ decodeTableWord 8 0x80 = some (.lit 0x00) := by
  decide

theorem test_decode_inc : [0x01, 0x21, 0x41, 0x61, 0x81, 0xA1, 0xC1, 0xE1].map (decodeTableWord 8) =
    [some .inc, some .inc2, some .incr, some .inc2r, some .inck, some .inc2k, some .inckr, some .inc2kr] := by decide

theorem test_decode_pop : [0x02, 0x22, 0x42, 0x62, 0x82, 0xA2, 0xC2, 0xE2].map (decodeTableWord 8) =
    [some .pop, some .pop2, some .popr, some .pop2r, some .popk, some .pop2k, some .popkr, some .pop2kr] := by decide

theorem test_decode_nip : [0x03, 0x23, 0x43, 0x63, 0x83, 0xA3, 0xC3, 0xE3].map (decodeTableWord 8) =
    [some .nip, some .nip2, some .nipr, some .nip2r, some .nipk, some .nip2k, some .nipkr, some .nip2kr] := by decide

theorem test_decode_swp : [0x04, 0x24, 0x44, 0x64, 0x84, 0xA4, 0xC4, 0xE4].map (decodeTableWord 8) =
    [some .swp, some .swp2, some .swpr, some .swp2r, some .swpk, some .swp2k, some .swpkr, some .swp2kr] := by decide

theorem test_decode_rot : [0x05, 0x25, 0x45, 0x65, 0x85, 0xA5, 0xC5, 0xE5].map (decodeTableWord 8) =
    [some .rot, some .rot2, some .rotr, some .rot2r, some .rotk, some .rot2k, some .rotkr, some .rot2kr] := by decide

theorem test_decode_dup : [0x06, 0x26, 0x46, 0x66, 0x86, 0xA6, 0xC6, 0xE6].map (decodeTableWord 8) =
    [some .dup, some .dup2, some .dupr, some .dup2r, some .dupk, some .dup2k, some .dupkr, some .dup2kr] := by decide

theorem test_decode_ovr : [0x07, 0x27, 0x47, 0x67, 0x87, 0xA7, 0xC7, 0xE7].map (decodeTableWord 8) =
    [some .ovr, some .ovr2, some .ovrr, some .ovr2r, some .ovrk, some .ovr2k, some .ovrkr, some .ovr2kr] := by decide

theorem test_decode_equ : [0x08, 0x28, 0x48, 0x68, 0x88, 0xA8, 0xC8, 0xE8].map (decodeTableWord 8) =
    [some .equ, some .equ2, some .equr, some .equ2r, some .equk, some .equ2k, some .equkr, some .equ2kr] := by decide

theorem test_decode_neq : [0x09, 0x29, 0x49, 0x69, 0x89, 0xA9, 0xC9, 0xE9].map (decodeTableWord 8) =
    [some .neq, some .neq2, some .neqr, some .neq2r, some .neqk, some .neq2k, some .neqkr, some .neq2kr] := by decide

theorem test_decode_gth : [0x0A, 0x2A, 0x4A, 0x6A, 0x8A, 0xAA, 0xCA, 0xEA].map (decodeTableWord 8) =
    [some .gth, some .gth2, some .gthr, some .gth2r, some .gthk, some .gth2k, some .gthkr, some .gth2kr] := by decide

theorem test_decode_lth : [0x0B, 0x2B, 0x4B, 0x6B, 0x8B, 0xAB, 0xCB, 0xEB].map (decodeTableWord 8) =
    [some .lth, some .lth2, some .lthr, some .lth2r, some .lthk, some .lth2k, some .lthkr, some .lth2kr] := by decide

theorem test_decode_jmp : [0x0C, 0x2C, 0x4C, 0x6C, 0x8C, 0xAC, 0xCC, 0xEC].map (decodeTableWord 8) =
    [some .jmp, some .jmp2, some .jmpr, some .jmp2r, some .jmpk, some .jmp2k, some .jmpkr, some .jmp2kr] := by decide

theorem test_decode_jcn : [0x0D, 0x2D, 0x4D, 0x6D, 0x8D, 0xAD, 0xCD, 0xED].map (decodeTableWord 8) =
    [some .jcn, some .jcn2, some .jcnr, some .jcn2r, some .jcnk, some .jcn2k, some .jcnkr, some .jcn2kr] := by decide

theorem test_decode_jsr : [0x0E, 0x2E, 0x4E, 0x6E, 0x8E, 0xAE, 0xCE, 0xEE].map (decodeTableWord 8) =
    [some .jsr, some .jsr2, some .jsrr, some .jsr2r, some .jsrk, some .jsr2k, some .jsrkr, some .jsr2kr] := by decide

theorem test_decode_sth : [0x0F, 0x2F, 0x4F, 0x6F, 0x8F, 0xAF, 0xCF, 0xEF].map (decodeTableWord 8) =
    [some .sth, some .sth2, some .sthr, some .sth2r, some .sthk, some .sth2k, some .sthkr, some .sth2kr] := by decide

theorem test_decode_ldz : [0x10, 0x30, 0x50, 0x70, 0x90, 0xB0, 0xD0, 0xF0].map (decodeTableWord 8) =
    [some .ldz, some .ldz2, some .ldzr, some .ldz2r, some .ldzk, some .ldz2k, some .ldzkr, some .ldz2kr] := by decide

theorem test_decode_stz : [0x11, 0x31, 0x51, 0x71, 0x91, 0xB1, 0xD1, 0xF1].map (decodeTableWord 8) =
    [some .stz, some .stz2, some .stzr, some .stz2r, some .stzk, some .stz2k, some .stzkr, some .stz2kr] := by decide

theorem test_decode_ldr : [0x12, 0x32, 0x52, 0x72, 0x92, 0xB2, 0xD2, 0xF2].map (decodeTableWord 8) =
    [some .ldr, some .ldr2, some .ldrr, some .ldr2r, some .ldrk, some .ldr2k, some .ldrkr, some .ldr2kr] := by decide

theorem test_decode_str : [0x13, 0x33, 0x53, 0x73, 0x93, 0xB3, 0xD3, 0xF3].map (decodeTableWord 8) =
    [some .str, some .str2, some .strr, some .str2r, some .strk, some .str2k, some .strkr, some .str2kr] := by decide

theorem test_decode_lda : [0x14, 0x34, 0x54, 0x74, 0x94, 0xB4, 0xD4, 0xF4].map (decodeTableWord 8) =
    [some .lda, some .lda2, some .ldar, some .lda2r, some .ldak, some .lda2k, some .ldakr, some .lda2kr] := by decide

theorem test_decode_sta : [0x15, 0x35, 0x55, 0x75, 0x95, 0xB5, 0xD5, 0xF5].map (decodeTableWord 8) =
    [some .sta, some .sta2, some .star, some .sta2r, some .stak, some .sta2k, some .stakr, some .sta2kr] := by decide

theorem test_decode_dei : [0x16, 0x36, 0x56, 0x76, 0x96, 0xB6, 0xD6, 0xF6].map (decodeTableWord 8) =
    [some .dei, some .dei2, some .deir, some .dei2r, some .deik, some .dei2k, some .deikr, some .dei2kr] := by decide

theorem test_decode_deo : [0x17, 0x37, 0x57, 0x77, 0x97, 0xB7, 0xD7, 0xF7].map (decodeTableWord 8) =
    [some .deo, some .deo2, some .deor, some .deo2r, some .deok, some .deo2k, some .deokr, some .deo2kr] := by decide

theorem test_decode_add : [0x18, 0x38, 0x58, 0x78, 0x98, 0xB8, 0xD8, 0xF8].map (decodeTableWord 8) =
    [some .add, some .add2, some .addr, some .add2r, some .addk, some .add2k, some .addkr, some .add2kr] := by decide

theorem test_decode_sub : [0x19, 0x39, 0x59, 0x79, 0x99, 0xB9, 0xD9, 0xF9].map (decodeTableWord 8) =
    [some .sub, some .sub2, some .subr, some .sub2r, some .subk, some .sub2k, some .subkr, some .sub2kr] := by decide

theorem test_decode_mul : [0x1A, 0x3A, 0x5A, 0x7A, 0x9A, 0xBA, 0xDA, 0xFA].map (decodeTableWord 8) =
    [some .mul, some .mul2, some .mulr, some .mul2r, some .mulk, some .mul2k, some .mulkr, some .mul2kr] := by decide

theorem test_decode_div : [0x1B, 0x3B, 0x5B, 0x7B, 0x9B, 0xBB, 0xDB, 0xFB].map (decodeTableWord 8) =
    [some .div, some .div2, some .divr, some .div2r, some .divk, some .div2k, some .divkr, some .div2kr] := by decide

theorem test_decode_and : [0x1C, 0x3C, 0x5C, 0x7C, 0x9C, 0xBC, 0xDC, 0xFC].map (decodeTableWord 8) =
    [some .and, some .and2, some .andr, some .and2r, some .andk, some .and2k, some .andkr, some .and2kr] := by decide

theorem test_decode_or : [0x1D, 0x3D, 0x5D, 0x7D, 0x9D, 0xBD, 0xDD, 0xFD].map (decodeTableWord 8) =
    [some .or, some .or2, some .orr, some .or2r, some .ork, some .or2k, some .orkr, some .or2kr] := by decide

theorem test_decode_xor : [0x1E, 0x3E, 0x5E, 0x7E, 0x9E, 0xBE, 0xDE, 0xFE].map (decodeTableWord 8) =
    [some .xor, some .xor2, some .xorr, some .xor2r, some .xork, some .xor2k, some .xorkr, some .xor2kr] := by decide

theorem test_decode_sft : [0x1F, 0x3F, 0x5F, 0x7F, 0x9F, 0xBF, 0xDF, 0xFF].map (decodeTableWord 8) =
    [some .sft, some .sft2, some .sftr, some .sft2r, some .sftk, some .sft2k, some .sftkr, some .sft2kr] := by decide

/-! ## One step -/

/-- A stack holding these bytes, bottom to top. -/
def stackOf (bytes : List Byte) : Stack :=
  bytes.foldl (fun st b => Stack.putByte { st with sp := st.sp + 1 } 1 b) Stack.empty

/-- A stack of `n` bytes 0x00. -/
def zeros (n : Byte) : Stack := { Stack.empty with sp := n }

/-- The machine after creation with these stacks. -/
def withStacks (ws rs : Stack) : State := { State.reset with ws := ws, rs := rs }

/-- The same with instruction bytes at the pc. -/
def at0100 (bytes : List Byte) (ws rs : List Byte) : State := (withStacks (stackOf ws) (stackOf rs)).storeAtPc bytes

/-- The contents of the stacks, the pc and the outcome after one step. -/
def seen (s : State) : Option (List Byte × List Byte × Short × Status) :=
  match step s with
  | .next t => some (t.ws.contents, t.rs.contents, t.pc, t.status)
  | _ => none

/-- The pointers, the pc and the outcome after one step. -/
def pointers (s : State) : Option (Byte × Byte × Short × Status) :=
  match step s with
  | .next t => some (t.ws.sp, t.rs.sp, t.pc, t.status)
  | _ => none

/-- A byte of memory after one step. -/
def byteAfter (s : State) (a : Short) : Option Byte :=
  match step s with
  | .next t => some (t.byteAt a)
  | _ => none

/-- The bus record after one step. -/
def busAfter (s : State) : Option (List BusEvent) :=
  match step s with
  | .next t => some t.bus
  | _ => none

/-- V1 of 95_test_vectors.md. -/
theorem test_brk :
    seen (at0100 [0x00] [0x01] []) = some ([0x01], [], 0x0101, .halted) := by decide

/-- V2, V3, V5 of 95_test_vectors.md. -/
theorem test_jci :
    seen (at0100 [0x20, 0x00, 0x05] [0x01] []) = some ([], [], 0x0108, .cont) ∧
    seen (at0100 [0x20, 0x00, 0x05] [0x00] []) = some ([], [], 0x0103, .cont) ∧
    seen (at0100 [0x20, 0x00, 0x05] [] []) = some ([], [], 0x0103, .fault .underflow) := by decide

/-- V7 of 95_test_vectors.md. -/
theorem test_jmi :
    seen (((withStacks (stackOf []) (stackOf [])).setPc 0xFFF0).storeAtPc [0x40, 0x00, 0x20]) = some ([], [], 0x0013, .cont) := by decide

/-- V9, V10 of 95_test_vectors.md. -/
theorem test_jsi :
    seen (at0100 [0x60, 0x00, 0x10] [] []) = some ([], [0x01, 0x03], 0x0113, .cont) ∧
    pointers ((withStacks (stackOf []) (zeros 254)).storeAtPc [0x60, 0x00, 0x10]) = some (0, 254, 0x0103, .fault .overflow) := by decide

/-- V11, V12 of 95_test_vectors.md. -/
theorem test_lit :
    seen (at0100 [0x80, 0x05] [] []) = some ([0x05], [], 0x0102, .cont) ∧
    pointers ((withStacks (zeros 255) (stackOf [])).storeAtPc [0x80, 0x05]) = some (255, 0, 0x0102, .fault .overflow) := by decide

/-- V13 of 95_test_vectors.md. -/
theorem test_lit2 :
    seen (at0100 [0xA0, 0x12, 0x34] [] []) = some ([0x12, 0x34], [], 0x0103, .cont) := by decide

/-- V15 of 95_test_vectors.md. -/
theorem test_litr :
    seen (at0100 [0xC0, 0x7F] [] []) = some ([], [0x7F], 0x0102, .cont) := by decide

/-- V16 of 95_test_vectors.md. -/
theorem test_lit2r :
    seen (at0100 [0xE0, 0xAB, 0xCD] [] []) = some ([], [0xAB, 0xCD], 0x0103, .cont) := by decide

/-- V18, V19, V21 of 95_test_vectors.md. -/
theorem test_inc :
    seen (at0100 [0x01] [0xFF] []) = some ([0x00], [], 0x0101, .cont) ∧
    seen (at0100 [0x21] [0x00, 0xFF] []) = some ([0x01, 0x00], [], 0x0101, .cont) ∧
    seen (at0100 [0xA1] [0x12, 0x34] []) = some ([0x12, 0x34, 0x12, 0x35], [], 0x0101, .cont) := by decide

/-- V25, V26 of 95_test_vectors.md. -/
theorem test_inc_edge :
    pointers ((withStacks (zeros 255) (stackOf [])).storeAtPc [0x81]) = some (255, 0, 0x0101, .fault .overflow) ∧
    pointers ((withStacks (zeros 255) (stackOf [])).storeAtPc [0x01]) = some (255, 0, 0x0101, .cont) := by decide

/-- V30, V31, V32 of 95_test_vectors.md. -/
theorem test_pop :
    seen (at0100 [0x82] [0x12] []) = some ([0x12], [], 0x0101, .cont) ∧
    seen (at0100 [0xA2] [0x12] []) = some ([0x12], [], 0x0101, .fault .underflow) ∧
    seen (at0100 [0x42] [0x55] [0x12]) = some ([0x55], [], 0x0101, .cont) := by decide

/-- V34, V35 of 95_test_vectors.md. -/
theorem test_nip :
    seen (at0100 [0x23] [0x12, 0x34, 0x56, 0x78] []) = some ([0x56, 0x78], [], 0x0101, .cont) ∧
    seen (at0100 [0x83] [0x12, 0x34] []) = some ([0x12, 0x34, 0x34], [], 0x0101, .cont) := by decide

/-- V38, V39 of 95_test_vectors.md. -/
theorem test_swp :
    seen (at0100 [0x24] [0x12, 0x34, 0x56, 0x78] []) = some ([0x56, 0x78, 0x12, 0x34], [], 0x0101, .cont) ∧
    seen (at0100 [0x84] [0x12, 0x34] []) = some ([0x12, 0x34, 0x34, 0x12], [], 0x0101, .cont) := by decide

/-- V43, V44 of 95_test_vectors.md. -/
theorem test_rot :
    seen (at0100 [0x25] [0x01, 0x02, 0x03, 0x04, 0x05, 0x06] []) = some ([0x03, 0x04, 0x05, 0x06, 0x01, 0x02], [], 0x0101, .cont) ∧
    seen (at0100 [0x85] [0x01, 0x02, 0x03] []) = some ([0x01, 0x02, 0x03, 0x02, 0x03, 0x01], [], 0x0101, .cont) := by decide

/-- V48, V49 of 95_test_vectors.md. -/
theorem test_dup :
    seen (at0100 [0x26] [0x12, 0x34] []) = some ([0x12, 0x34, 0x12, 0x34], [], 0x0101, .cont) ∧
    seen (at0100 [0x86] [0x12] []) = some ([0x12, 0x12, 0x12], [], 0x0101, .cont) := by decide

/-- V51, V52 of 95_test_vectors.md. -/
theorem test_dup_edge :
    pointers ((withStacks (zeros 253) (stackOf [])).storeAtPc [0x26]) = some (255, 0, 0x0101, .cont) ∧
    pointers ((withStacks (zeros 254) (stackOf [])).storeAtPc [0x26]) = some (254, 0, 0x0101, .fault .overflow) := by decide

/-- V54, V56 of 95_test_vectors.md. -/
theorem test_ovr :
    seen (at0100 [0x27] [0x01, 0x02, 0x03, 0x04] []) = some ([0x01, 0x02, 0x03, 0x04, 0x01, 0x02], [], 0x0101, .cont) ∧
    seen (at0100 [0x67] [] [0x01, 0x02, 0x03, 0x04]) = some ([], [0x01, 0x02, 0x03, 0x04, 0x01, 0x02], 0x0101, .cont) := by decide

/-- V59, V60 of 95_test_vectors.md. -/
theorem test_equ :
    seen (at0100 [0x28] [0x12, 0x00, 0x12, 0x01] []) = some ([0x00], [], 0x0101, .cont) ∧
    seen (at0100 [0x88] [0x07, 0x07] []) = some ([0x07, 0x07, 0x01], [], 0x0101, .cont) := by decide

/-- V61, V63 of 95_test_vectors.md. -/
theorem test_neq :
    seen (at0100 [0x09] [0x05, 0x06] []) = some ([0x01], [], 0x0101, .cont) ∧
    seen (at0100 [0x49] [] [0x01, 0x02]) = some ([], [0x01], 0x0101, .cont) := by decide

/-- V64, V66, V68 of 95_test_vectors.md. -/
theorem test_gth :
    seen (at0100 [0x0A] [0x80, 0x7F] []) = some ([0x01], [], 0x0101, .cont) ∧
    seen (at0100 [0x0A] [0x05, 0x05] []) = some ([0x00], [], 0x0101, .cont) ∧
    seen (at0100 [0x2A] [0x01, 0x00, 0x00, 0xFF] []) = some ([0x01], [], 0x0101, .cont) := by decide

/-- V70, V72 of 95_test_vectors.md. -/
theorem test_lth :
    seen (at0100 [0x0B] [0x7F, 0x80] []) = some ([0x01], [], 0x0101, .cont) ∧
    seen (at0100 [0x8B] [0x03, 0x05] []) = some ([0x03, 0x05, 0x01], [], 0x0101, .cont) := by decide

/-- V77, V81, V83 of 95_test_vectors.md. -/
theorem test_jmp :
    seen (at0100 [0x0C] [0xFE] []) = some ([], [], 0x00FF, .cont) ∧
    seen (((withStacks (stackOf [0x01]) (stackOf [])).setPc 0xFFFF).storeAtPc [0x0C]) = some ([], [], 0x0001, .cont) ∧
    seen (at0100 [0x6C] [] [0x01, 0x03]) = some ([], [], 0x0103, .cont) := by decide

/-- V87, V88, V92 of 95_test_vectors.md. -/
theorem test_jcn :
    seen (at0100 [0x0D] [0x01, 0x05] []) = some ([], [], 0x0106, .cont) ∧
    seen (at0100 [0x0D] [0x00, 0x05] []) = some ([], [], 0x0101, .cont) ∧
    seen (at0100 [0x8D] [0x01, 0x05] []) = some ([0x01, 0x05], [], 0x0106, .cont) := by decide

/-- V95, V97, V98 of 95_test_vectors.md. -/
theorem test_jsr :
    seen (at0100 [0x0E] [0x10] []) = some ([], [0x01, 0x01], 0x0111, .cont) ∧
    seen (at0100 [0x6E] [0x99] [0x02, 0x00]) = some ([0x99, 0x01, 0x01], [], 0x0200, .cont) ∧
    seen (at0100 [0xAE] [0x02, 0x00] []) = some ([0x02, 0x00], [0x01, 0x01], 0x0200, .cont) := by decide

/-- V100 of 95_test_vectors.md. -/
theorem test_jsr_second_check :
    pointers ((withStacks (stackOf [0x02, 0x00]) (zeros 254)).storeAtPc [0x2E]) = some (0, 254, 0x0101, .fault .overflow) := by decide

/-- V103, V104, V106 of 95_test_vectors.md. -/
theorem test_sth :
    seen (at0100 [0x2F] [0x12, 0x34] []) = some ([], [0x12, 0x34], 0x0101, .cont) ∧
    seen (at0100 [0x4F] [] [0x12]) = some ([0x12], [], 0x0101, .cont) ∧
    seen (at0100 [0x8F] [0x12] []) = some ([0x12], [0x12], 0x0101, .cont) := by decide

/-- V108, V109 of 95_test_vectors.md. -/
theorem test_sth_second_check :
    pointers ((withStacks (stackOf [0x12]) (zeros 255)).storeAtPc [0x0F]) = some (0, 255, 0x0101, .fault .overflow) ∧
    pointers ((withStacks (stackOf [0x12]) (zeros 255)).storeAtPc [0x8F]) = some (1, 255, 0x0101, .fault .overflow) := by decide

/-- V112, V113 of 95_test_vectors.md. -/
theorem test_ldz :
    seen (((((withStacks (stackOf [0xFF]) (stackOf [])).setPc 0x0200).storeAtPc [0x30]).setByte 0x00FF 0x12).setByte 0x0100 0x34) = some ([0x12, 0x34], [], 0x0201, .cont) ∧
    seen ((at0100 [0x90] [0x10] []).setByte 0x0010 0xAB) = some ([0x10, 0xAB], [], 0x0101, .cont) := by decide

/-- V119, V120 of 95_test_vectors.md. -/
theorem test_stz :
    seen (((withStacks (stackOf [0x12, 0x34, 0xFF]) (stackOf [])).setPc 0x0200).storeAtPc [0x31]) = some ([], [], 0x0201, .cont) ∧
    byteAfter (((withStacks (stackOf [0x12, 0x34, 0xFF]) (stackOf [])).setPc 0x0200).storeAtPc [0x31]) 0x00FF = some 0x12 ∧
    byteAfter (((withStacks (stackOf [0x12, 0x34, 0xFF]) (stackOf [])).setPc 0x0200).storeAtPc [0x31]) 0x0100 = some 0x34 ∧
    seen (at0100 [0x91] [0xAB, 0x10] []) = some ([0xAB, 0x10], [], 0x0101, .cont) ∧
    byteAfter (at0100 [0x91] [0xAB, 0x10] []) 0x0010 = some 0xAB := by decide

/-- V123, V126 of 95_test_vectors.md. -/
theorem test_ldr :
    seen (at0100 [0x12] [0xFF] []) = some ([0x12], [], 0x0101, .cont) ∧
    seen ((((withStacks (stackOf [0x20]) (stackOf [])).setPc 0xFFF0).storeAtPc [0x12]).setByte 0x0011 0x5A) = some ([0x5A], [], 0xFFF1, .cont) := by decide

/-- V127, V129 of 95_test_vectors.md. -/
theorem test_str :
    seen (at0100 [0x13] [0xAB, 0xFE] []) = some ([], [], 0x0101, .cont) ∧
    byteAfter (at0100 [0x13] [0xAB, 0xFE] []) 0x00FF = some 0xAB ∧
    seen (at0100 [0x33] [0x12, 0x34, 0x10] []) = some ([], [], 0x0101, .cont) ∧
    byteAfter (at0100 [0x33] [0x12, 0x34, 0x10] []) 0x0111 = some 0x12 ∧
    byteAfter (at0100 [0x33] [0x12, 0x34, 0x10] []) 0x0112 = some 0x34 := by decide

/-- V131, V132 of 95_test_vectors.md. -/
theorem test_lda :
    seen (((at0100 [0x34] [0xFF, 0xFF] []).setByte 0x0000 0xBB).setByte 0xFFFF 0xAA) = some ([0xAA, 0xBB], [], 0x0101, .cont) ∧
    seen ((at0100 [0x94] [0x12, 0x34] []).setByte 0x1234 0x56) = some ([0x12, 0x34, 0x56], [], 0x0101, .cont) := by decide

/-- V135, V138 of 95_test_vectors.md. -/
theorem test_sta :
    seen (at0100 [0x35] [0x12, 0x34, 0xFF, 0xFF] []) = some ([], [], 0x0101, .cont) ∧
    byteAfter (at0100 [0x35] [0x12, 0x34, 0xFF, 0xFF] []) 0x0000 = some 0x34 ∧
    byteAfter (at0100 [0x35] [0x12, 0x34, 0xFF, 0xFF] []) 0xFFFF = some 0x12 ∧
    seen (at0100 [0x55] [] [0xCD, 0x03, 0x00]) = some ([], [], 0x0101, .cont) ∧
    byteAfter (at0100 [0x55] [] [0xCD, 0x03, 0x00]) 0x0300 = some 0xCD := by decide

/-- V139, V145, V146 of 95_test_vectors.md. -/
theorem test_dei :
    seen ((at0100 [0x16] [0x00] []).setDev (Vector.replicate 16 none)) = some ([0x00], [], 0x0101, .cont) ∧
    seen (at0100 [0x16] [0xAA, 0x04] []) = some ([0xAA, 0x02], [], 0x0101, .cont) ∧
    busAfter (at0100 [0x16] [0xAA, 0x04] []) = some [⟨.input, 0, 0x4, .byte, 0x02⟩] ∧
    seen (at0100 [0x96] [0xAA, 0x04] []) = some ([0xAA, 0x04, 0x03], [], 0x0101, .cont) ∧
    busAfter (at0100 [0x96] [0xAA, 0x04] []) = some [⟨.input, 0, 0x4, .byte, 0x03⟩] := by decide

/-- V148, V150 of 95_test_vectors.md. -/
theorem test_dei_short :
    seen (at0100 [0x36] [0x04] [0x01, 0x02, 0x03]) = some ([0x02, 0x03], [0x01, 0x02, 0x03], 0x0101, .cont) ∧
    busAfter (at0100 [0x36] [0x04] [0x01, 0x02, 0x03]) = some [⟨.input, 0, 0x4, .short, 0x0203⟩] ∧
    seen (((at0100 [0x36] [0x1F] []).writePort 1 0x0 0x11).writePort 1 0xF 0x99) = some ([0x99, 0x11], [], 0x0101, .cont) ∧
    busAfter (((at0100 [0x36] [0x1F] []).writePort 1 0x0 0x11).writePort 1 0xF 0x99) = some [⟨.input, 1, 0xF, .short, 0x9911⟩] := by decide

/-- V154, V159 of 95_test_vectors.md. -/
theorem test_deo :
    seen (at0100 [0x17] [0x41, 0x18] []) = some ([], [], 0x0101, .cont) ∧
    busAfter (at0100 [0x17] [0x41, 0x18] []) = some [⟨.output, 1, 0x8, .byte, 0x41⟩] ∧
    seen (at0100 [0x17] [0xAA, 0xBB, 0x01, 0x04] []) = some ([0xAA], [], 0x0101, .cont) ∧
    busAfter (at0100 [0x17] [0xAA, 0xBB, 0x01, 0x04] []) = some [⟨.output, 0, 0x4, .byte, 0x01⟩] := by decide

/-- V161, V169 of 95_test_vectors.md. -/
theorem test_deo_short :
    seen (at0100 [0x37] [0x03, 0x01, 0x04] [0x09]) = some ([0x03, 0x01, 0x04], [0x09], 0x0101, .cont) ∧
    busAfter (at0100 [0x37] [0x03, 0x01, 0x04] [0x09]) = some [⟨.output, 0, 0x4, .short, 0x0301⟩] ∧
    seen (at0100 [0x37] [0x41, 0x42, 0x1F] []) = some ([], [], 0x0101, .cont) ∧
    busAfter (at0100 [0x37] [0x41, 0x42, 0x1F] []) = some [⟨.output, 1, 0xF, .short, 0x4142⟩] := by decide

/-- V171, V173, V174 of 95_test_vectors.md. -/
theorem test_add :
    seen (at0100 [0x18] [0xFF, 0x01] []) = some ([0x00], [], 0x0101, .cont) ∧
    seen (at0100 [0x38] [0x00, 0xFF, 0x00, 0x01] []) = some ([0x01, 0x00], [], 0x0101, .cont) ∧
    seen (at0100 [0x98] [0x05, 0x03] []) = some ([0x05, 0x03, 0x08], [], 0x0101, .cont) := by decide

/-- V179, V180, V182 of 95_test_vectors.md. -/
theorem test_sub :
    seen (at0100 [0x19] [0x03, 0x05] []) = some ([0xFE], [], 0x0101, .cont) ∧
    seen { at0100 [0x19] [0x08, 0x03] [] with sub8Adds := true } = some ([0x0B], [], 0x0101, .cont) ∧
    seen (at0100 [0x39] [0x01, 0x00, 0x00, 0x01] []) = some ([0x00, 0xFF], [], 0x0101, .cont) := by decide

/-- V187, V189 of 95_test_vectors.md. -/
theorem test_mul :
    seen (at0100 [0x3A] [0x00, 0xFF, 0x00, 0xFF] []) = some ([0xFE, 0x01], [], 0x0101, .cont) ∧
    seen (at0100 [0x9A] [0x02, 0x03] []) = some ([0x02, 0x03, 0x06], [], 0x0101, .cont) := by decide

/-- V192, V194 of 95_test_vectors.md. -/
theorem test_div :
    seen (at0100 [0x1B] [0x80, 0x02] []) = some ([0x40], [], 0x0101, .cont) ∧
    seen (at0100 [0x3B] [0xFF, 0xFF, 0x00, 0x10] []) = some ([0x0F, 0xFF], [], 0x0101, .cont) := by decide

/-- V196, V198 of 95_test_vectors.md. -/
theorem test_div_by_zero :
    seen (at0100 [0x1B] [0x05, 0x00] []) = some ([0x05, 0x00], [], 0x0101, .fault .zeroDiv) ∧
    seen (at0100 [0x9B] [0x05, 0x00] []) = some ([0x05, 0x00], [], 0x0101, .fault .zeroDiv) := by decide

/-- V205, V206 of 95_test_vectors.md. -/
theorem test_and :
    seen (at0100 [0x1C] [0xF0, 0x3C] []) = some ([0x30], [], 0x0101, .cont) ∧
    seen (at0100 [0x3C] [0x12, 0x34, 0x0F, 0xF0] []) = some ([0x02, 0x30], [], 0x0101, .cont) := by decide

/-- V209, V210 of 95_test_vectors.md. -/
theorem test_or :
    seen (at0100 [0x1D] [0xF0, 0x0C] []) = some ([0xFC], [], 0x0101, .cont) ∧
    seen (at0100 [0x3D] [0x12, 0x00, 0x00, 0x34] []) = some ([0x12, 0x34], [], 0x0101, .cont) := by decide

/-- V212, V213 of 95_test_vectors.md. -/
theorem test_xor :
    seen (at0100 [0x1E] [0xFF, 0x0F] []) = some ([0xF0], [], 0x0101, .cont) ∧
    seen (at0100 [0x3E] [0x12, 0x34, 0x12, 0x34] []) = some ([0x00, 0x00], [], 0x0101, .cont) := by decide

/-- V216, V224, V227 of 95_test_vectors.md. -/
theorem test_sft :
    seen (at0100 [0x1F] [0x34, 0x10] []) = some ([0x68], [], 0x0101, .cont) ∧
    seen (at0100 [0x3F] [0xFF, 0xFF, 0x0F] []) = some ([0x00, 0x01], [], 0x0101, .cont) ∧
    seen (at0100 [0x9F] [0x34, 0x10] []) = some ([0x34, 0x10, 0x68], [], 0x0101, .cont) := by decide

/-! ## The host's side -/

/-- Creation with every parameter at its default is the state after reset (R26, R124). -/
theorem test_create_defaults : State.create Config.entryPc State.defaultDevices Config.sub8Adds = State.reset := rfl

/-- T1 of 95_test_vectors.md: the loaded program halts at its fourth step with 0x08 on ws and the pc at 0x0106. -/
theorem test_load_and_run :
    (State.reset.load [0x80, 0x05, 0x80, 0x03, 0x18, 0x00]).map (fun s =>
      ((s.run 10).1.ws.contents, (s.run 10).1.pc, (s.run 10).2)) = some ([0x08], 0x0106, .halted, 4) := by decide

/-- With nothing loaded the first step executes a zero byte: BRK (R26, R56). -/
theorem test_reset_halts : seen State.reset = some ([], [], 0x0101, .halted) := by decide

/-- A table word stored where `step` fetches is the first instruction run after reset. -/
theorem test_withFetchWord : seen (State.reset.withFetchWord 16 0x4180) = some ([0x41], [], 0x0102, .cont) := by decide

/-- Input arrives at the Console's ports 2 and 7 and re-entry is at its vector (R118, R119, R129). -/
theorem test_console_input :
    let s := ((State.reset.writePorts 1 0x0 .short 0x0200).deliverInput 1 0x61 0x01).reenter 1
    s.readPort 1 0x2 = 0x61 ∧ s.readPort 1 0x7 = 0x01 ∧ s.pc = 0x0200 ∧ s.bus = [] := by decide

/-- The output stream and the exit status the host reads (R94, R116, R119). -/
theorem test_console_output :
    let s := (State.reset.devWrite 1 0x8 .byte 0x41).devWrite 0 0xF .byte 0x01
    s.streamOf 1 0x8 = [0x41] ∧ s.lastWrite 1 = 0x41 ∧ s.exitStatus 0 = 0x01 := by decide

/-- The machine after creation with these bytes on ws and rs. -/
def with2 (ws rs : List Byte) : State := withStacks (stackOf ws) (stackOf rs)

/-- A host device is given the stack pointers as DEI2's check left them, here 2 and 1, as System port 4 shows them in V148 (R88, D8). -/
theorem test_host_device_reads_pointers :
    ∃ t, exec .dei2 ((with2 [0x2F] [0x09]).setSlot 2 (some (.host 7 []))) = .next t ∧
      t.slot 2 = some (.host 7 (Config.hostReadShort 7 [] ⟨2, 1⟩ 0xF).2) := ⟨_, rfl, rfl⟩

/-! ## Witnesses: for every statement with hypotheses, a state and operands that meet all of them -/

/-- `EffectReady` in a form that evaluates. -/
theorem ready {k : Bool} {st : Stack} {pre before after : List Byte}
    (h : st.contents = pre ++ before ∧ (effectResult k pre before after).length ≤ 255) : EffectReady k st pre before after := h

theorem witness_EncodeAfterDecodeIsIdentity : decode [0xA0, 0x12, 0x34, 0x18] = .ok (.lit2 0x1234, [0x18]) ∧
    decode [0xFF] = .ok (.sft2kr, []) := by decide

theorem witness_DispatchOnByteFields : (0xFF : Byte).extractLsb' 0 5 ≠ 0 ∧ (0x01 : Byte).extractLsb' 0 5 ≠ 0 := by decide

theorem witness_StepRunsDecodedInstruction :
    decode [State.reset.byteAt State.reset.pc, State.reset.byteAt (State.reset.pc + 1), State.reset.byteAt (State.reset.pc + 2)] =
      .ok (.brk, [0x00, 0x00]) := by decide

/-- The pc at the top of memory, its operand bytes at 0x0000 and 0x0001. -/
theorem witness_StepRunsDecodedInstruction_wrap :
    let s := (State.reset.setPc 0xFFFF).storeAtPc [0xA0, 0x12, 0x34]
    decode [s.byteAt s.pc, s.byteAt (s.pc + 1), s.byteAt (s.pc + 2)] = .ok (.lit2 0x1234, []) := by decide

/-- Both sides of the equivalence occur. -/
theorem witness_OnlyBrkHalts : (∃ t, step State.reset = .next t ∧ t.status = .halted) ∧
    ∃ t, step (State.reset.withFetchWord 8 0x40) = .next t ∧ t.status = .cont := ⟨⟨_, rfl, rfl⟩, _, rfl, rfl⟩

/-- A fault before any change, with the pc past an inline operand. -/
theorem witness_FaultLeavesStateOfPseudocode_first :
    ∃ t, exec (.lit2 0x1234) (withStacks (zeros 254) Stack.empty) = .next t ∧ t.status = .fault .overflow := ⟨_, rfl, rfl⟩

/-- A fault at the second check of JSR, of STH and of DEO. -/
theorem witness_FaultLeavesStateOfPseudocode_second :
    (∃ t, exec (.stack .jsr ⟨false, false, .byte⟩) (withStacks (zeros 1) (zeros 254)) = .next t ∧ t.status = .fault .overflow) ∧
    (∃ t, exec (.stack .sth ⟨false, true, .short⟩) (withStacks (zeros 254) (zeros 2)) = .next t ∧ t.status = .fault .overflow) ∧
    ∃ t, exec (.stack .deo ⟨false, false, .short⟩) (withStacks (zeros 2) Stack.empty) = .next t ∧ t.status = .fault .underflow :=
  ⟨⟨_, rfl, rfl⟩, ⟨_, rfl, rfl⟩, _, rfl, rfl⟩

theorem witness_StepKeepsMemoryCanonical : State.reset.Inv ∧ ∃ t, step State.reset = .next t := ⟨rfl, _, rfl⟩

/-- A store of a zero byte over a listed one, and of a short at the top of memory. -/
theorem witness_StepKeepsMemoryCanonical_store :
    (at0100 [0x11] [0x00, 0x10] []).Inv ∧ (∃ t, step (at0100 [0x11] [0x00, 0x10] []) = .next t) ∧
    ∃ t, step (at0100 [0x35] [0x12, 0x34, 0xFF, 0xFF] []) = .next t := ⟨by unfold State.Inv; decide, ⟨_, rfl⟩, _, rfl⟩

theorem witness_LastBufferByteNeverWritten :
    ∃ t, step ((withStacks (zeros 253) Stack.empty).storeAtPc [0xA0, 0x12, 0x34]) = .next t ∧ t.ws.sp = 255 := ⟨_, rfl, rfl⟩

theorem witness_SlotContentsAndParameterFixed : ∃ t, step (at0100 [0x17] [0x41, 0x18] []) = .next t ∧ t.bus ≠ [] :=
  ⟨_, rfl, by decide⟩

/-- Each disjunct occurs: an instruction that calls no device, a DEI and a DEO that do. -/
theorem witness_OnlyDeviceInstructionsReachDevices :
    (∃ t, exec .inc (with2 [0x41] []) = .next t) ∧ (∃ t, exec .dei (with2 [0x18] []) = .next t ∧ t.bus ≠ []) ∧
    ∃ t, exec .deo (with2 [0x41, 0x18] []) = .next t ∧ t.bus ≠ [] := ⟨⟨_, rfl⟩, ⟨_, rfl, by decide⟩, _, rfl, by decide⟩

theorem witness_OnlyStoresChangeMemory :
    ∃ t, exec .sta (with2 [0xAB, 0xFF, 0xFF] []) = .next t ∧ t.byteAt 0xFFFF ≠ (with2 [0xAB, 0xFF, 0xFF] []).byteAt 0xFFFF :=
  ⟨_, rfl, by decide⟩

/-- The three outcomes of a check, at the bounds. -/
theorem witness_ReserveChecksAndCommitsPointer :
    1 > (zeros 0).sp.toNat ∧ (0 ≤ (zeros 255).sp.toNat ∧ newPointer (zeros 255).sp.toNat 0 1 false > 255) ∧
    (1 ≤ (zeros 255).sp.toNat ∧ newPointer (zeros 255).sp.toNat 1 1 true > 255) ∧
    1 ≤ (zeros 255).sp.toNat ∧ newPointer (zeros 255).sp.toNat 1 1 false ≤ 255 := by decide

/-- One byte too few, without keep on ws and with keep on rs. -/
theorem witness_TooFewBytesRaiseUnderflow :
    (Op.add ≠ .div ∧ Op.add ≠ .deo ∧
      ((withStacks (zeros 3) (zeros 9)).stack (activeStack ⟨false, false, .short⟩)).sp.toNat < Op.add.consumed .short) ∧
    Op.jcn ≠ .div ∧ Op.jcn ≠ .deo ∧
    ((withStacks (zeros 9) (zeros 1)).stack (activeStack ⟨true, true, .byte⟩)).sp.toNat < Op.jcn.consumed .byte := by decide

theorem witness_TooManyBytesRaiseOverflow :
    Op.dup ≠ .div ∧ Op.dup ≠ .deo ∧
    Op.dup.consumed .short ≤ ((withStacks (zeros 254) (zeros 0)).stack (activeStack ⟨false, false, .short⟩)).sp.toNat ∧
    newPointer ((withStacks (zeros 254) (zeros 0)).stack (activeStack ⟨false, false, .short⟩)).sp.toNat
      (Op.dup.consumed .short) (Op.dup.produced .short) false > 255 := by decide

/-- Taken, not taken, and no condition. -/
theorem witness_JciJumpsIfTopNonZero : (with2 [0x12, 0x01] []).ws.contents = [0x12] ++ [0x01] ∧
    (with2 [0x00] []).ws.contents = [] ++ [0x00] ∧ State.reset.ws.sp = 0 := by decide

theorem witness_JsiCallsThroughRs : (withStacks Stack.empty (zeros 253)).rs.sp.toNat ≤ 253 ∧
    (withStacks Stack.empty (zeros 254)).rs.sp.toNat > 253 := by decide

/-- Each width with exactly the room it needs and with one byte too little. -/
theorem witness_LiteralsPushInlineOperand :
    ((withStacks (zeros 254) (zeros 253)).stack .ws).sp.toNat + [(0x05 : Byte)].length ≤ 255 ∧
    ((withStacks (zeros 255) (zeros 254)).stack .ws).sp.toNat + [(0x05 : Byte)].length > 255 ∧
    ((withStacks (zeros 254) (zeros 253)).stack .rs).sp.toNat + [hiByte 0x1234, loByte 0x1234].length ≤ 255 ∧
    ((withStacks (zeros 255) (zeros 254)).stack .rs).sp.toNat + [hiByte 0x1234, loByte 0x1234].length > 255 := by decide

/-- The largest operand, on ws. -/
theorem witness_IncAddsOne : (0xFFFF : Nat) < Width.short.modulus ∧
    EffectReady false ((with2 [0x12, 0xFF, 0xFF] []).stack (activeStack ⟨false, false, .short⟩)) [0x12]
      (valueBytes .short 0xFFFF) (valueBytes .short ((0xFFFF + 1) % Width.short.modulus)) := ⟨by decide, ready (by decide)⟩

/-- With keep, on a stack that the result fills to its 255th byte. -/
theorem witness_IncAddsOne_full : (0 : Nat) < Width.byte.modulus ∧
    EffectReady true ((withStacks (zeros 254) Stack.empty).stack (activeStack ⟨true, false, .byte⟩)) (List.replicate 253 0x00)
      (valueBytes .byte 0) (valueBytes .byte ((0 + 1) % Width.byte.modulus)) := ⟨by decide, ready (by decide +kernel)⟩

theorem witness_PopDiscardsTop : (0x34 : Nat) < Width.byte.modulus ∧
    EffectReady true ((with2 [] [0x12, 0x34]).stack (activeStack ⟨true, true, .byte⟩)) [0x12] (valueBytes .byte 0x34) [] :=
  ⟨by decide, ready (by decide)⟩

theorem witness_NipRemovesSecond : (0x12 : Nat) < Width.byte.modulus ∧ (0x34 : Nat) < Width.byte.modulus ∧
    EffectReady false ((with2 [0x12, 0x34] []).stack (activeStack ⟨false, false, .byte⟩)) []
      (valueBytes .byte 0x12 ++ valueBytes .byte 0x34) (valueBytes .byte 0x34) := ⟨by decide, by decide, ready (by decide)⟩

theorem witness_SwpExchangesTopTwo : (0x1234 : Nat) < Width.short.modulus ∧ (0x5678 : Nat) < Width.short.modulus ∧
    EffectReady true ((with2 [0x12, 0x34, 0x56, 0x78] []).stack (activeStack ⟨true, false, .short⟩)) []
      (valueBytes .short 0x1234 ++ valueBytes .short 0x5678) (valueBytes .short 0x5678 ++ valueBytes .short 0x1234) :=
  ⟨by decide, by decide, ready (by decide)⟩

theorem witness_RotBringsThirdToTop : (1 : Nat) < Width.byte.modulus ∧ (2 : Nat) < Width.byte.modulus ∧ (3 : Nat) < Width.byte.modulus ∧
    EffectReady false ((with2 [] [1, 2, 3]).stack (activeStack ⟨false, true, .byte⟩)) []
      (valueBytes .byte 1 ++ valueBytes .byte 2 ++ valueBytes .byte 3)
      (valueBytes .byte 2 ++ valueBytes .byte 3 ++ valueBytes .byte 1) := ⟨by decide, by decide, by decide, ready (by decide)⟩

theorem witness_DupCopiesTop : (0 : Nat) < Width.short.modulus ∧
    EffectReady false ((withStacks (zeros 253) Stack.empty).stack (activeStack ⟨false, false, .short⟩)) (List.replicate 251 0x00)
      (valueBytes .short 0) (valueBytes .short 0 ++ valueBytes .short 0) := ⟨by decide, ready (by decide +kernel)⟩

theorem witness_OvrCopiesSecond : (1 : Nat) < Width.byte.modulus ∧ (2 : Nat) < Width.byte.modulus ∧
    EffectReady false ((with2 [1, 2] []).stack (activeStack ⟨false, false, .byte⟩)) [] (valueBytes .byte 1 ++ valueBytes .byte 2)
      (valueBytes .byte 1 ++ valueBytes .byte 2 ++ valueBytes .byte 1) := ⟨by decide, by decide, ready (by decide)⟩

/-- Equal operands and different ones. -/
theorem witness_EquNeqPushEquality : (7 : Nat) < Width.byte.modulus ∧ (8 : Nat) < Width.byte.modulus ∧
    EffectReady false ((with2 [7, 7] []).stack (activeStack ⟨false, false, .byte⟩)) [] (valueBytes .byte 7 ++ valueBytes .byte 7)
      [if (7 : Nat) = 7 then 0x01 else 0x00] ∧
    EffectReady false ((with2 [7, 8] []).stack (activeStack ⟨false, false, .byte⟩)) [] (valueBytes .byte 7 ++ valueBytes .byte 8)
      [if (7 : Nat) ≠ 8 then 0x01 else 0x00] := ⟨by decide, by decide, ready (by decide), ready (by decide)⟩

theorem witness_GthLthPushUnsignedOrder : (0x80 : Nat) < Width.byte.modulus ∧ (0x7F : Nat) < Width.byte.modulus ∧
    EffectReady false ((with2 [0x80, 0x7F] []).stack (activeStack ⟨false, false, .byte⟩)) []
      (valueBytes .byte 0x80 ++ valueBytes .byte 0x7F) [if (0x80 : Nat) > 0x7F then 0x01 else 0x00] ∧
    EffectReady false ((with2 [0x80, 0x7F] []).stack (activeStack ⟨false, false, .byte⟩)) []
      (valueBytes .byte 0x80 ++ valueBytes .byte 0x7F) [if (0x80 : Nat) < 0x7F then 0x01 else 0x00] :=
  ⟨by decide, by decide, ready (by decide), ready (by decide)⟩

theorem witness_JmpGoesToTarget : (0x80 : Nat) < Width.byte.modulus ∧
    EffectReady false ((with2 [0x80] []).stack (activeStack ⟨false, false, .byte⟩)) [] (valueBytes .byte 0x80) [] ∧
    EffectReady true ((with2 [] [0xFF, 0xFF]).stack (activeStack ⟨true, true, .short⟩)) [] (valueBytes .short 0xFFFF) [] :=
  ⟨by decide, ready (by decide), ready (by decide)⟩

theorem witness_JcnGoesToTargetIfNonZero : (0x1234 : Nat) < Width.short.modulus ∧
    EffectReady false ((with2 [0xFF, 0x12, 0x34] []).stack (activeStack ⟨false, false, .short⟩)) []
      (0xFF :: valueBytes .short 0x1234) [] ∧
    EffectReady false ((with2 [0x00, 0x12, 0x34] []).stack (activeStack ⟨false, false, .short⟩)) []
      (0x00 :: valueBytes .short 0x1234) [] := ⟨by decide, ready (by decide), ready (by decide)⟩

theorem witness_JsrPushesReturnOnOtherStack : (0x10 : Nat) < Width.byte.modulus ∧
    EffectReady false ((withStacks (stackOf [0x10]) (zeros 253)).stack (activeStack ⟨false, false, .byte⟩)) []
      (valueBytes .byte 0x10) [] ∧
    ((withStacks (stackOf [0x10]) (zeros 253)).stack (otherStack ⟨false, false, .byte⟩)).sp.toNat ≤ 253 :=
  ⟨by decide, ready (by decide), by decide⟩

theorem witness_SthMovesTopToOtherStack : (0x12 : Nat) < Width.byte.modulus ∧
    EffectReady true ((withStacks (zeros 254) (stackOf [0x12])).stack (activeStack ⟨true, true, .byte⟩)) []
      (valueBytes .byte 0x12) [] ∧
    ((withStacks (zeros 254) (stackOf [0x12])).stack (otherStack ⟨true, true, .byte⟩)).sp.toNat + Width.byte.bytes ≤ 255 :=
  ⟨by decide, ready (by decide), by decide⟩

/-- Both clauses, each at the least full stack that overflows. -/
theorem witness_SecondCheckOfJsrAndSthOverflows :
    (Width.byte.bytes ≤ ((withStacks (zeros 1) (zeros 254)).stack (activeStack ⟨false, false, .byte⟩)).sp.toNat ∧
      ((withStacks (zeros 1) (zeros 254)).stack (otherStack ⟨false, false, .byte⟩)).sp.toNat > 253) ∧
    Width.short.bytes ≤ ((withStacks (zeros 254) (zeros 2)).stack (activeStack ⟨true, true, .short⟩)).sp.toNat ∧
    ((withStacks (zeros 254) (zeros 2)).stack (otherStack ⟨true, true, .short⟩)).sp.toNat + Width.short.bytes > 255 := by decide

/-- A short at 0xFF, whose second byte comes from 0x0100. -/
theorem witness_LdzPushesZeroPageBytes :
    EffectReady false ((with2 [0xFF] []).stack (activeStack ⟨false, false, .short⟩)) [] [0xFF]
      ((with2 [0xFF] []).bytesAt (BitVec.ofNat 16 0xFF) .short) := ready (by decide)

theorem witness_LdrPushesRelativeBytes :
    EffectReady true ((with2 [] [0x80]).stack (activeStack ⟨true, true, .byte⟩)) [] [0x80]
      ((with2 [] [0x80]).bytesAt (relativeTo (with2 [] [0x80]).pc 0x80) .byte) := ready (by decide)

/-- A short at 0xFFFF, whose second byte comes from 0x0000. -/
theorem witness_LdaPushesAbsoluteBytes :
    EffectReady false ((with2 [0xFF, 0xFF] []).stack (activeStack ⟨false, false, .short⟩)) [] (valueBytes .short 0xFFFF)
      ((with2 [0xFF, 0xFF] []).bytesAt 0xFFFF .short) := ready (by decide)

theorem witness_StzStoresToZeroPage : (with2 [0x12, 0x34, 0xFF] []).Inv ∧ (0x1234 : Nat) < Width.short.modulus ∧
    EffectReady false ((with2 [0x12, 0x34, 0xFF] []).stack (activeStack ⟨false, false, .short⟩)) []
      (valueBytes .short 0x1234 ++ [0xFF]) [] := ⟨rfl, by decide, ready (by decide)⟩

theorem witness_StrStoresRelative : (with2 [] [0xAB, 0x80]).Inv ∧ (0xAB : Nat) < Width.byte.modulus ∧
    EffectReady true ((with2 [] [0xAB, 0x80]).stack (activeStack ⟨true, true, .byte⟩)) [] (valueBytes .byte 0xAB ++ [0x80]) [] :=
  ⟨rfl, by decide, ready (by decide)⟩

theorem witness_StaStoresAbsolute : (with2 [0x12, 0x34, 0xFF, 0xFF] []).Inv ∧ (0x1234 : Nat) < Width.short.modulus ∧
    EffectReady false ((with2 [0x12, 0x34, 0xFF, 0xFF] []).stack (activeStack ⟨false, false, .short⟩)) []
      (valueBytes .short 0x1234 ++ valueBytes .short 0xFFFF) [] := ⟨rfl, by decide, ready (by decide)⟩

/-- Both clauses at slot 2, which is empty by default. -/
theorem witness_EmptySlotReadsZeroAndDiscards : State.reset.slot ((0x2F : Byte).extractLsb' 4 4) = none ∧
    EffectReady false ((with2 [0x2F] []).stack (activeStack ⟨false, false, .short⟩)) [] [0x2F] (valueBytes .short 0) ∧
    (0xFFFF : Nat) < Width.short.modulus ∧
    EffectReady true ((with2 [0xFF, 0xFF, 0x2F] []).stack (activeStack ⟨true, false, .short⟩)) []
      (valueBytes .short 0xFFFF ++ [0x2F]) [] := ⟨by decide, ready (by decide), by decide, ready (by decide)⟩

/-- A short at the Console's port 15, whose second byte is port 0. -/
theorem witness_DeiReadsConsolePorts :
    (with2 [0x1F] []).slot (slotOf 0x1F) = some (.console (Vector.replicate 16 0)) ∧
    EffectReady false ((with2 [0x1F] []).stack (activeStack ⟨false, false, .short⟩)) [] [0x1F]
      (portBytes (fun q => (Vector.replicate 16 (0 : Byte))[q.toNat]'q.isLt) (portOf 0x1F) .short) := ⟨by decide, ready (by decide)⟩

/-- The pointer ports 4 and 5 together, and a storage port. -/
theorem witness_DeiReadsSystemPorts :
    (with2 [0x04] []).slot (slotOf 0x04) = some (.system SystemPorts.fresh) ∧
    EffectReady false ((with2 [0x04] []).stack (activeStack ⟨false, false, .short⟩)) [] [0x04] (valueBytes .short 0) ∧
    (with2 [0x0F] []).slot (slotOf 0x0F) = some (.system SystemPorts.fresh) ∧
    EffectReady true ((with2 [0x0F] []).stack (activeStack ⟨true, false, .byte⟩)) [] [0x0F] (valueBytes .byte 0) :=
  ⟨by decide, ready (by decide), by decide, ready (by decide)⟩

/-- Both clauses, with host device 7 in slot 2. -/
theorem witness_HostDeviceIsCalledOnce :
    ((with2 [0x2F] []).setSlot 2 (some (.host 7 []))).slot (slotOf 0x2F) = some (.host 7 []) ∧
    EffectReady false (((with2 [0x2F] []).setSlot 2 (some (.host 7 []))).stack (activeStack ⟨false, false, .short⟩)) [] [0x2F]
      (valueBytes .short 0) ∧
    ((with2 [0x41, 0x2F] []).setSlot 2 (some (.host 7 []))).slot (slotOf 0x2F) = some (.host 7 []) ∧
    (0x41 : Nat) < Width.byte.modulus ∧
    EffectReady false (((with2 [0x41, 0x2F] []).setSlot 2 (some (.host 7 []))).stack (activeStack ⟨false, false, .byte⟩)) []
      (valueBytes .byte 0x41 ++ [0x2F]) [] :=
  ⟨by decide, ready (by decide), by decide, by decide, ready (by decide)⟩

theorem witness_DeoWritesConsolePorts :
    (with2 [0x41, 0x42, 0x1F] []).slot (slotOf 0x1F) = some (.console (Vector.replicate 16 0)) ∧ (0x4142 : Nat) < Width.short.modulus ∧
    EffectReady false ((with2 [0x41, 0x42, 0x1F] []).stack (activeStack ⟨false, false, .short⟩)) []
      (valueBytes .short 0x4142 ++ [0x1F]) [] := ⟨by decide, by decide, ready (by decide)⟩

/-- A short to ports 3 and 4, and a byte to port 5 with keep. -/
theorem witness_DeoWritesSystemPortsAndPointers :
    (with2 [0x41, 0x42, 0x03] []).slot (slotOf 0x03) = some (.system SystemPorts.fresh) ∧ (0x4142 : Nat) < Width.short.modulus ∧
    EffectReady false ((with2 [0x41, 0x42, 0x03] []).stack (activeStack ⟨false, false, .short⟩)) []
      (valueBytes .short 0x4142 ++ [0x03]) [] ∧
    (with2 [] [0xFF, 0x05]).slot (slotOf 0x05) = some (.system SystemPorts.fresh) ∧ (0xFF : Nat) < Width.byte.modulus ∧
    EffectReady true ((with2 [] [0xFF, 0x05]).stack (activeStack ⟨true, true, .byte⟩)) [] (valueBytes .byte 0xFF ++ [0x05]) [] :=
  ⟨by decide, by decide, ready (by decide), by decide, by decide, ready (by decide)⟩

/-- No port byte; a port byte alone; one byte too few for a short. -/
theorem witness_DeoChecksTwice :
    ((withStacks (zeros 0) (zeros 9)).stack (activeStack ⟨true, false, .byte⟩)).sp = 0 ∧
    1 ≤ ((withStacks (zeros 1) (zeros 9)).stack (activeStack ⟨false, false, .byte⟩)).sp.toNat ∧
    ((withStacks (zeros 1) (zeros 9)).stack (activeStack ⟨false, false, .byte⟩)).sp.toNat < 1 + Width.byte.bytes ∧
    1 ≤ ((withStacks (zeros 9) (zeros 2)).stack (activeStack ⟨true, true, .short⟩)).sp.toNat ∧
    ((withStacks (zeros 9) (zeros 2)).stack (activeStack ⟨true, true, .short⟩)).sp.toNat < 1 + Width.short.bytes := by decide

theorem witness_MetadataRoundTrip : State.reset.slot 0 = some (.system SystemPorts.fresh) := by decide

/-- The sum's wrap; one byte too few; keep without room. -/
theorem witness_AddPushesSum :
    (0xFFFF : Nat) < Width.short.modulus ∧ (2 : Nat) < Width.short.modulus ∧
    EffectReady false ((with2 [0xFF, 0xFF, 0x00, 0x02] []).stack (activeStack ⟨false, false, .short⟩)) []
      (valueBytes .short 0xFFFF ++ valueBytes .short 2) (valueBytes .short ((0xFFFF + 2) % Width.short.modulus)) ∧
    ((withStacks (zeros 3) Stack.empty).stack (activeStack ⟨false, false, .short⟩)).sp.toNat < 2 * Width.short.bytes ∧
    2 * Width.byte.bytes ≤ ((withStacks (zeros 255) Stack.empty).stack (activeStack ⟨true, false, .byte⟩)).sp.toNat ∧
    ((withStacks (zeros 255) Stack.empty).stack (activeStack ⟨true, false, .byte⟩)).sp.toNat + Width.byte.bytes > 255 :=
  ⟨by decide, by decide, ready (by decide), by decide, by decide, by decide⟩

/-- The difference, and the sum where the parameter is set. -/
theorem witness_SubPushesDifference :
    (3 : Nat) < Width.byte.modulus ∧ (5 : Nat) < Width.byte.modulus ∧
    ([0xFE] : List Byte) = valueBytes .byte
      (if Width.byte = .byte ∧ (with2 [3, 5] []).sub8Adds = true then (3 + 5) % 256
        else (((3 : Nat) : Int) - (5 : Nat)) % (Width.byte.modulus : Int) |>.toNat) ∧
    EffectReady false ((with2 [3, 5] []).stack (activeStack ⟨false, false, .byte⟩)) [] (valueBytes .byte 3 ++ valueBytes .byte 5)
      [0xFE] ∧
    ([0x08] : List Byte) = valueBytes .byte
      (if Width.byte = .byte ∧ ({ with2 [3, 5] [] with sub8Adds := true } : State).sub8Adds = true then (3 + 5) % 256
        else (((3 : Nat) : Int) - (5 : Nat)) % (Width.byte.modulus : Int) |>.toNat) ∧
    EffectReady true (({ with2 [3, 5] [] with sub8Adds := true } : State).stack (activeStack ⟨true, false, .byte⟩)) []
      (valueBytes .byte 3 ++ valueBytes .byte 5) [0x08] :=
  ⟨by decide, by decide, by decide, ready (by decide), by decide, ready (by decide)⟩

theorem witness_MulPushesProduct : (0xFFFF : Nat) < Width.short.modulus ∧
    EffectReady true ((with2 [0xFF, 0xFF, 0xFF, 0xFF] []).stack (activeStack ⟨true, false, .short⟩)) []
      (valueBytes .short 0xFFFF ++ valueBytes .short 0xFFFF) (valueBytes .short ((0xFFFF * 0xFFFF) % Width.short.modulus)) :=
  ⟨by decide, ready (by decide)⟩

theorem witness_DivPushesQuotient : (0x80 : Nat) < Width.byte.modulus ∧ (2 : Nat) < Width.byte.modulus ∧ (2 : Nat) ≠ 0 ∧
    EffectReady false ((with2 [0x80, 2] []).stack (activeStack ⟨false, false, .byte⟩)) []
      (valueBytes .byte 0x80 ++ valueBytes .byte 2) (valueBytes .byte (0x80 / 2)) := ⟨by decide, by decide, by decide, ready (by decide)⟩

/-- No divisor; a zero divisor alone; a divisor without dividend; keep without room. -/
theorem witness_DivFaultsInOrder :
    ((withStacks (zeros 1) Stack.empty).stack (activeStack ⟨false, false, .short⟩)).sp.toNat < Width.short.bytes ∧
    ((with2 [0, 0] []).stack (activeStack ⟨true, false, .short⟩)).contents = [] ++ valueBytes .short 0 ∧
    ((2 : Nat) < Width.byte.modulus ∧ (2 : Nat) ≠ 0 ∧
      ((with2 [2] []).stack (activeStack ⟨false, false, .byte⟩)).contents = [] ++ valueBytes .byte 2 ∧
      ([] : List Byte).length < Width.byte.bytes) ∧
    ((withStacks ((zeros 255).putByte 1 2) Stack.empty).stack (activeStack ⟨true, false, .byte⟩)).contents =
      List.replicate 254 0 ++ valueBytes .byte 2 ∧
    Width.byte.bytes ≤ (List.replicate 254 (0 : Byte)).length ∧
    ((withStacks ((zeros 255).putByte 1 2) Stack.empty).stack (activeStack ⟨true, false, .byte⟩)).sp.toNat + Width.byte.bytes > 255 := by
  decide +kernel

theorem witness_AndOrXorCombineBits : (0xF0 : Nat) < Width.byte.modulus ∧ (0x3C : Nat) < Width.byte.modulus ∧
    EffectReady false ((with2 [0xF0, 0x3C] []).stack (activeStack ⟨false, false, .byte⟩)) []
      (valueBytes .byte 0xF0 ++ valueBytes .byte 0x3C) (valueBytes .byte (0xF0 &&& 0x3C)) ∧
    EffectReady true ((with2 [0xF0, 0x3C] []).stack (activeStack ⟨true, false, .byte⟩)) []
      (valueBytes .byte 0xF0 ++ valueBytes .byte 0x3C) (valueBytes .byte (0xF0 ||| 0x3C)) ∧
    EffectReady false ((with2 [] [0xF0, 0x3C]).stack (activeStack ⟨false, true, .byte⟩)) []
      (valueBytes .byte 0xF0 ++ valueBytes .byte 0x3C) (valueBytes .byte (0xF0 ^^^ 0x3C)) :=
  ⟨by decide, by decide, ready (by decide), ready (by decide), ready (by decide)⟩

/-- A control byte whose two counts are both 15. -/
theorem witness_SftShiftsRightThenLeft : (0xFFFF : Nat) < Width.short.modulus ∧
    EffectReady false ((with2 [0xFF, 0xFF, 0xFF] []).stack (activeStack ⟨false, false, .short⟩)) [] (valueBytes .short 0xFFFF ++ [0xFF])
      (valueBytes .short (((0xFFFF >>> ((0xFF : Byte).toNat % 16)) <<< ((0xFF : Byte).toNat / 16)) % Width.short.modulus)) :=
  ⟨by decide, ready (by decide)⟩

end Sys2Proof.Tests
end

/-! SUPPORT. What is kept of earlier steps, the outcome (10_state.md R20) and the bus record (45_device_io.md R94), is read by nothing:
every meaning commutes with putting another history in front. -/

namespace Sys2Proof.Machine

/-- The state with another history: outcome `r` of the step before, and the events `b` recorded before its own. -/
def State.withHistory (s : State) (r : Status) (b : List BusEvent) : State := { s with status := r, bus := b ++ s.bus }

/-- The answer with the events `b` recorded before its own; the outcome is the answer's own. -/
def Result.recordedAfter (b : List BusEvent) : Result → Result
  | .next t => .next (t.withHistory t.status b)
  | .fault e => .fault e
  | .refused e => .refused e

section
variable (s : State) (r : Status) (b : List BusEvent)

/-! ### Reads see no history -/

@[simp] theorem State.withHistory_pc : (s.withHistory r b).pc = s.pc := rfl
@[simp] theorem State.withHistory_sub8Adds : (s.withHistory r b).sub8Adds = s.sub8Adds := rfl
@[simp] theorem State.withHistory_stack (x : StackSel) : (s.withHistory r b).stack x = s.stack x := by cases x <;> rfl
@[simp] theorem State.withHistory_slot (d : BitVec 4) : (s.withHistory r b).slot d = s.slot d := rfl
@[simp] theorem State.withHistory_pointers : (s.withHistory r b).pointers = s.pointers := rfl
@[simp] theorem State.withHistory_fetchBytes : (s.withHistory r b).fetchBytes = s.fetchBytes := rfl

@[simp] theorem State.withHistory_memRead (a : Short) (w : Width) : (s.withHistory r b).memRead a w = s.memRead a w := by
  cases w <;> rfl

@[simp] theorem State.withHistory_peek (x : StackSel) (i : Nat) (w : Width) :
    (s.withHistory r b).peek x i w = s.peek x i w := by
  simp only [State.peek, State.withHistory_stack]

@[simp] theorem State.withHistory_peekByte (x : StackSel) (i : Nat) : (s.withHistory r b).peekByte x i = s.peekByte x i := by
  simp only [State.peekByte, State.withHistory_stack]

@[simp] theorem State.withHistory_jumpTarget (t : Short) (w : Width) :
    (s.withHistory r b).jumpTarget t w = s.jumpTarget t w := by
  cases w <;> rfl

@[simp] theorem State.withHistory_relativeAddr : (s.withHistory r b).relativeAddr = s.relativeAddr := rfl
@[simp] theorem State.withHistory_inlineTarget : (s.withHistory r b).inlineTarget = s.inlineTarget := rfl

@[simp] theorem State.withHistory_readPorts (d p : BitVec 4) (w : Width) :
    (s.withHistory r b).readPorts d p w = s.readPorts d p w := by
  cases w <;> rfl

/-! ### Updates leave the history in front -/

@[simp] theorem State.withHistory_setPc (t : Short) : (s.withHistory r b).setPc t = (s.setPc t).withHistory r b := rfl
@[simp] theorem State.withHistory_skip (n : Nat) : (s.withHistory r b).skip n = (s.skip n).withHistory r b := rfl
@[simp] theorem State.withHistory_afterFetch : (s.withHistory r b).afterFetch = s.afterFetch.withHistory r b := rfl

@[simp] theorem State.withHistory_setSlot (d : BitVec 4) (x : Option Device) :
    (s.withHistory r b).setSlot d x = (s.setSlot d x).withHistory r b := rfl

@[simp] theorem State.withHistory_setStack (x : StackSel) (st : Stack) :
    (s.withHistory r b).setStack x st = (s.setStack x st).withHistory r b := by
  cases x <;> rfl

@[simp] theorem State.withHistory_put (x : StackSel) (i : Nat) (w : Width) (v : Short) :
    (s.withHistory r b).put x i w v = (s.put x i w v).withHistory r b := by
  simp only [State.put, State.withHistory_stack, State.withHistory_setStack]

@[simp] theorem State.withHistory_memWrite (a : Short) (w : Width) (v : Short) :
    (s.withHistory r b).memWrite a w v = (s.memWrite a w v).withHistory r b := by
  cases w <;> rfl

@[simp] theorem State.withHistory_record (e : BusEvent) :
    (s.withHistory r b).record e = (s.record e).withHistory r b := by
  simp only [State.record, State.withHistory, List.append_assoc]

@[simp] theorem State.withHistory_writePort (d p : BitVec 4) (v : Byte) :
    (s.withHistory r b).writePort d p v = (s.writePort d p v).withHistory r b := by
  simp only [State.writePort, State.withHistory_slot]
  split
  · unfold State.writeSystem
    split
    · rfl
    · split <;> rfl
  all_goals rfl

@[simp] theorem State.withHistory_writePorts (d p : BitVec 4) (w : Width) (v : Short) :
    (s.withHistory r b).writePorts d p w v = (s.writePorts d p w v).withHistory r b := by
  cases w <;> simp only [State.writePorts, State.withHistory_writePort]

@[simp] theorem State.withHistory_devRead (d p : BitVec 4) (w : Width) :
    (s.withHistory r b).devRead d p w = ((s.devRead d p w).1, (s.devRead d p w).2.withHistory r b) := by
  simp only [State.devRead, State.withHistory_slot]
  split <;> simp

@[simp] theorem State.withHistory_devWrite (d p : BitVec 4) (w : Width) (v : Short) :
    (s.withHistory r b).devWrite d p w v = (s.devWrite d p w v).withHistory r b := by
  simp only [State.devWrite, State.withHistory_slot]
  split <;> simp

/-! ### The end of a step and the capacity check -/

@[simp] theorem State.withHistory_complete : (s.withHistory r b).complete = Result.recordedAfter b s.complete := rfl
@[simp] theorem State.withHistory_halt : (s.withHistory r b).halt = Result.recordedAfter b s.halt := rfl
@[simp] theorem State.withHistory_raise (kind : FaultKind) :
    (s.withHistory r b).raise kind = Result.recordedAfter b (s.raise kind) := rfl

variable {s r b}

/-- A check goes on as its continuation does. -/
theorem State.withHistory_reserving {x : StackSel} {c p : Nat} {k : Bool} {f g : State → Result}
    (h : ∀ u : State, g (u.withHistory r b) = Result.recordedAfter b (f u)) :
    (s.withHistory r b).reserving x c p k g = Result.recordedAfter b (s.reserving x c p k f) := by
  simp only [State.reserving, State.withHistory_stack]
  split
  · exact State.withHistory_raise ..
  · rw [State.withHistory_setStack, h]

end

/-! ### Every instruction -/

section
variable (m : Mode) (s : State) (r : Status) (b : List BusEvent)

theorem binaryOp_withHistory (f : Short → Short → Short) :
    binaryOp f m (s.withHistory r b) = Result.recordedAfter b (binaryOp f m s) := by
  unfold binaryOp
  exact State.withHistory_reserving fun u => by simp

theorem compareOp_withHistory (rel : Short → Short → Bool) :
    compareOp rel m (s.withHistory r b) = Result.recordedAfter b (compareOp rel m s) := by
  unfold compareOp
  exact State.withHistory_reserving fun u => by simp

theorem subOp_withHistory : subOp m (s.withHistory r b) = Result.recordedAfter b (subOp m s) := by
  simp only [subOp, State.withHistory_sub8Adds]
  split <;> exact binaryOp_withHistory ..

theorem divOp_withHistory : divOp m (s.withHistory r b) = Result.recordedAfter b (divOp m s) := by
  simp only [divOp, State.withHistory_stack, State.withHistory_peek]
  split
  · exact State.withHistory_raise ..
  · split
    · exact State.withHistory_raise ..
    · exact binaryOp_withHistory ..

theorem jcnOp_withHistory : jcnOp m (s.withHistory r b) = Result.recordedAfter b (jcnOp m s) := by
  unfold jcnOp
  refine State.withHistory_reserving fun u => ?_
  simp only [State.withHistory_peekByte]
  split <;> simp

theorem deoWrite_withHistory (u : State) :
    deoWrite m (s.withHistory r b) (u.withHistory r b) = Result.recordedAfter b (deoWrite m s u) := by
  simp [deoWrite]

theorem deoOp_withHistory : deoOp m (s.withHistory r b) = Result.recordedAfter b (deoOp m s) := by
  unfold deoOp
  refine State.withHistory_reserving fun u => ?_
  simp only [State.withHistory_stack]
  split
  · split
    · exact State.withHistory_raise ..
    · exact deoWrite_withHistory ..
  · exact State.withHistory_reserving fun u => deoWrite_withHistory ..

/-- A form of a base operation does the same after any history. -/
theorem opMeaning_withHistory (op : Op) :
    opMeaning op m (s.withHistory r b) = Result.recordedAfter b (opMeaning op m s) := by
  cases op
  case equ | neq | gth | lth => exact compareOp_withHistory ..
  case add | mul | and | or | xor => exact binaryOp_withHistory ..
  case sub => exact subOp_withHistory ..
  case div => exact divOp_withHistory ..
  case jcn => exact jcnOp_withHistory ..
  case deo => exact deoOp_withHistory ..
  case jsr | sth =>
    simp only [opMeaning, jsrOp, sthOp]
    exact State.withHistory_reserving fun u => State.withHistory_reserving fun u' => by simp
  case inc | pop | nip | swp | rot | dup | ovr | jmp | ldz | ldr | lda | stz | str | sta | dei | sft =>
    simp only [opMeaning, incOp, popOp, nipOp, swpOp, rotOp, dupOp, ovrOp, jmpOp, ldzOp, ldrOp, loadByteAddr, ldaOp, stzOp, strOp,
      storeByteAddr, staOp, deiOp, sftOp]
    exact State.withHistory_reserving fun u => by simp

theorem pushInline_withHistory (x : StackSel) (w : Width) (v : Short) :
    pushInline x w v (s.withHistory r b) = Result.recordedAfter b (pushInline x w v s) := by
  unfold pushInline
  exact State.withHistory_reserving (s := s.skip w.bytes) fun u => by simp

/-- An instruction does the same after any history. -/
theorem exec_withHistory (i : Instr) : exec i (s.withHistory r b) = Result.recordedAfter b (exec i s) := by
  rcases instr_cases_form i with
    rfl | ⟨d, rfl⟩ | ⟨d, rfl⟩ | ⟨d, rfl⟩ | ⟨v, rfl⟩ | ⟨v, rfl⟩ | ⟨v, rfl⟩ | ⟨v, rfl⟩ | ⟨op, m, rfl⟩
  · exact State.withHistory_halt ..
  · show execJci d _ = Result.recordedAfter b (execJci d s)
    unfold execJci
    refine State.withHistory_reserving (s := s.skip 2) fun u => ?_
    simp only [State.withHistory_skip, State.withHistory_peekByte]
    split <;> simp
  · rfl
  · show execJsi d _ = Result.recordedAfter b (execJsi d s)
    unfold execJsi
    exact State.withHistory_reserving (s := s.skip 2) fun u => by simp
  · exact pushInline_withHistory ..
  · exact pushInline_withHistory ..
  · exact pushInline_withHistory ..
  · exact pushInline_withHistory ..
  · rw [exec_stack, exec_stack]
    exact opMeaning_withHistory ..

/-- A step does the same after any history. -/
theorem step_withHistory : step (s.withHistory r b) = Result.recordedAfter b (step s) := by
  simp only [step, State.withHistory_fetchBytes, State.withHistory_afterFetch]
  split
  · exact exec_withHistory ..
  · rfl

end
end Sys2Proof.Machine

/-! SUPPORT. A step is the meaning of the instruction decoded at the pc, and it always ends in a next state. -/

namespace Sys2Proof

/-- Where the low five bits select no base operation they are all 0 (30_encoding.md R45). -/
theorem low_bits_zero_of_opOf_eq_none {b : Byte} (h : opOf b = none) : b.toNat % 32 = 0 := by
  have hlt := (b.extractLsb' 0 5).isLt
  have hbits : (b.extractLsb' 0 5).toNat = b.toNat % 32 := by simp
  unfold opOf at h
  split at h
  case h_32 =>
    simp only [imp_false] at *
    omega
  all_goals cases h

/-- A byte whose low five bits are 0 is an immediate opcode, and two bytes are enough for its operand (R45, R51). -/
theorem decodeImmediate_answers {b : Byte} (h : b.toNat % 32 = 0) (b1 b2 : Byte) (rest : List Byte) :
    ∃ i rest', decodeImmediate b (b1 :: b2 :: rest) = .ok (i, rest') := by
  have hlt := b.isLt
  have hb : b.toNat = 0x00 ∨ b.toNat = 0x20 ∨ b.toNat = 0x40 ∨ b.toNat = 0x60 ∨ b.toNat = 0x80 ∨ b.toNat = 0xA0 ∨
      b.toNat = 0xC0 ∨ b.toNat = 0xE0 := by omega
  unfold decodeImmediate
  rcases hb with hb | hb | hb | hb | hb | hb | hb | hb <;> rw [hb] <;> exact ⟨_, _, rfl⟩

/-- Three bytes are enough for any instruction (R52, R53). -/
theorem decode_answers (b0 b1 b2 : Byte) (rest : List Byte) : ∃ i rest', decode (b0 :: b1 :: b2 :: rest) = .ok (i, rest') := by
  rw [decode]
  cases h : opOf b0 with
  | some op => exact ⟨_, _, rfl⟩
  | none => exact decodeImmediate_answers (low_bits_zero_of_opOf_eq_none h) b1 b2 rest

end Sys2Proof

namespace Sys2Proof.Machine

theorem step_of_decode {s : State} {i : Instr} {rest : List Byte} (h : decode s.fetchBytes = .ok (i, rest)) :
    step s = exec i s.afterFetch := by
  simp only [step, h]

/-- All that a step can do: it runs the decoded instruction, which ends as `Outcome` says. -/
theorem step_outcome (s : State) :
    ∃ i rest t, decode s.fetchBytes = .ok (i, rest) ∧ step s = .next t ∧ Outcome i s.afterFetch t := by
  obtain ⟨i, rest, hd⟩ := decode_answers (s.byteAt s.pc) (s.byteAt (s.pc + 1)) (s.byteAt (s.pc + 2)) []
  obtain ⟨t, ht, ho⟩ := exec_outcome i s.afterFetch
  exact ⟨i, rest, t, hd, (step_of_decode hd).trans ht, ho⟩

/-- The one outcome of a step. -/
theorem step_outcome_of_eq {s t : State} (h : step s = .next t) :
    ∃ i rest, decode s.fetchBytes = .ok (i, rest) ∧ Outcome i s.afterFetch t := by
  obtain ⟨i, rest, t', hd, ht, ho⟩ := step_outcome s
  cases h.symm.trans ht
  exact ⟨i, rest, hd, ho⟩

/-! ### What every outcome keeps -/

/-- No instruction writes the last byte of a buffer (10_state.md R17). -/
theorem Outcome.topBytesKept {i : Instr} {s t : State} (h : Outcome i s t) : TopBytesKept s t := by
  cases h with
  | halted | faulted => exact TopBytesKept.refl s
  | faultedAtSecondCheck => exact (TopBytesKept.refl s).setStack _ rfl
  | completed _ _ _ htop => exact htop
  | stored _ _ _ _ _ _ _ htop => simpa [TopBytesKept] using htop
  | @input u m d p _ _ htop hroom =>
    obtain ⟨-, -, hws, hrs, -, -⟩ := State.devRead_frame u d p m.width
    have hread : TopBytesKept s (u.devRead d p m.width).2 := by simpa [TopBytesKept, hws, hrs] using htop
    have hstack : (u.devRead d p m.width).2.stack (activeStack m) = u.stack (activeStack m) := by
      cases activeStack m
      · exact hws
      · exact hrs
    exact hread.put _ 1 _ _ (by omega) (by rw [hstack]; omega)
  | @output u m d p v _ _ htop =>
    obtain ⟨-, -, -, -, hws, hrs⟩ := State.devWrite_frame u d p m.width v
    simpa [TopBytesKept, hws, hrs] using htop

/-- Every slot holds a device of the kind it held, or stays empty (R21). -/
def KindsKept (s t : State) : Prop := ∀ d : BitVec 4, (t.slot d).map Device.kind = (s.slot d).map Device.kind

theorem KindsKept.of_dev_eq {s t : State} (h : t.dev = s.dev) : KindsKept s t := fun d => by
  simp only [State.slot, h]

theorem KindsKept.trans {s t u : State} (h : KindsKept s t) (h' : KindsKept t u) : KindsKept s u :=
  fun d => (h' d).trans (h d)

/-- No instruction exchanges a device or changes the parameter (R7, R21, decision D17). -/
theorem Outcome.kindsKept {i : Instr} {s t : State} (h : Outcome i s t) : KindsKept s t ∧ t.sub8Adds = s.sub8Adds := by
  cases h with
  | halted | faulted => exact ⟨.of_dev_eq rfl, rfl⟩
  | faultedAtSecondCheck => exact ⟨.of_dev_eq (State.setStack_dev ..), State.setStack_sub8Adds ..⟩
  | completed _ _ hout _ =>
    obtain ⟨-, hdev, -, hsub⟩ := hout
    exact ⟨.of_dev_eq hdev, hsub⟩
  | stored _ _ _ _ _ _ hout _ =>
    obtain ⟨-, hdev, -, hsub⟩ := hout
    exact ⟨.of_dev_eq (by simpa using hdev), by simpa using hsub⟩
  | @input u m d p _ hout _ _ =>
    obtain ⟨-, hdev, -, hsub⟩ := hout
    obtain ⟨-, -, -, -, -, hread⟩ := State.devRead_frame u d p m.width
    have hkind : KindsKept u (u.devRead d p m.width).2 := fun e => State.devRead_kind u d p e m.width
    exact ⟨((KindsKept.of_dev_eq hdev).trans hkind).trans (.of_dev_eq (by simp)), by simp [hread, hsub]⟩
  | @output u m d p v _ hout _ =>
    obtain ⟨-, hdev, -, hsub⟩ := hout
    obtain ⟨-, -, -, hwrite, -, -⟩ := State.devWrite_frame u d p m.width v
    have hkind : KindsKept u (u.devWrite d p m.width v) := fun e => State.devWrite_kind u d p e m.width v
    exact ⟨((KindsKept.of_dev_eq hdev).trans hkind).trans (.of_dev_eq rfl), by simp [hwrite, hsub]⟩

/-! ### The state at creation -/

/-- Every storage port of the System device is 0x00 at creation (decision D21). -/
theorem SystemPorts.read_fresh (p : BitVec 4) : SystemPorts.fresh.read p = 0x00 := by
  unfold SystemPorts.read SystemPorts.fresh
  split <;> exact Vector.getElem_replicate ..

/-- Both stacks are empty at creation (decision D15). -/
theorem State.reset_stack (x : StackSel) : State.reset.stack x = Stack.empty := by
  cases x <;> rfl

/-- Only slots 0 and 1 hold a device at creation (decision D17). -/
theorem State.reset_slot_none {d : BitVec 4} (h0 : d ≠ 0) (h1 : d ≠ 1) : State.reset.slot d = none := by
  revert d
  decide

end Sys2Proof.Machine

/-! SUPPORT. DEI and DEO whose checks pass and whose slot is filled (45_device_io.md R95, R96), and what the System device does then
(R25, R91, 60_exceptions.md R115). -/

namespace Sys2Proof.Machine

/-! ### The state after a form's capacity check -/

/-- The state in which a check of `c` and `p` bytes on the active stack has passed: its pointer alone is moved (R32). -/
def State.afterCheck (s : State) (m : Mode) (c p : Nat) : State :=
  s.setStack (activeStack m) ((s.stack (activeStack m)).setSp (newPointer (s.stack (activeStack m)).sp.toNat c p m.keep))

section
variable (s : State) (m : Mode) (c p : Nat)

@[simp] theorem State.afterCheck_mem : (s.afterCheck m c p).mem = s.mem := State.setStack_mem ..
@[simp] theorem State.afterCheck_pc : (s.afterCheck m c p).pc = s.pc := State.setStack_pc ..
@[simp] theorem State.afterCheck_dev : (s.afterCheck m c p).dev = s.dev := State.setStack_dev ..
@[simp] theorem State.afterCheck_bus : (s.afterCheck m c p).bus = s.bus := State.setStack_bus ..
@[simp] theorem State.afterCheck_sub8Adds : (s.afterCheck m c p).sub8Adds = s.sub8Adds := State.setStack_sub8Adds ..
@[simp] theorem State.afterCheck_slot (d : BitVec 4) : (s.afterCheck m c p).slot d = s.slot d := State.slot_setStack ..

@[simp] theorem State.afterCheck_other : (s.afterCheck m c p).stack (otherStack m) = s.stack (otherStack m) :=
  State.stack_other_setStack ..

/-- A check writes no buffer byte. -/
theorem State.afterCheck_dat (x : StackSel) : ((s.afterCheck m c p).stack x).dat = (s.stack x).dat := by
  unfold State.afterCheck
  by_cases h : x = activeStack m
  · rw [h, State.stack_setStack, Stack.setSp_dat]
  · rw [State.stack_setStack_ne s _ h]

variable {s m c}

/-- The pointers after a check that only consumes. -/
theorem State.afterCheck_popped_sp (h : c ≤ (s.stack (activeStack m)).sp.toNat) (x : StackSel) :
    ((s.afterCheck m c 0).stack x).sp = poppedSp m s c x := by
  unfold State.afterCheck
  by_cases hx : x = activeStack m
  · rw [hx, State.stack_setStack, Stack.setSp_popped h]
  · rw [State.stack_setStack_ne s _ hx, poppedSp, if_neg fun h' => hx h'.1]

end

/-! ### DEI and DEO at a filled slot -/

/-- A read that reaches a device is recorded, and changes no other slot (R93, R94). -/
theorem State.devRead_reached {s : State} {d : BitVec 4} (h : s.slot d ≠ none) (p : BitVec 4) (w : Width) :
    (s.devRead d p w).2.bus = s.bus ++ [⟨.input, d, p, w, (s.devRead d p w).1⟩] ∧
    OtherSlotsSame s (s.devRead d p w).2 d := by
  unfold State.devRead
  split
  · next hn => exact absurd hn h
  · exact ⟨rfl, fun e he => by simp [State.slot_setSlot, he]⟩
  · exact ⟨rfl, fun _ _ => rfl⟩
  · exact ⟨rfl, fun _ _ => rfl⟩

/-- A write that reaches a device is recorded, and changes no other slot (R93, R94). -/
theorem State.devWrite_reached {s : State} {d : BitVec 4} (h : s.slot d ≠ none) (p : BitVec 4) (w : Width) (v : Short) :
    (s.devWrite d p w v).bus = s.bus ++ [⟨.output, d, p, w, v⟩] ∧ OtherSlotsSame s (s.devWrite d p w v) d := by
  have hone : (s.devWrite d p w v).bus ≠ s.bus := by
    unfold State.devWrite
    split
    · next hn => exact absurd hn h
    all_goals cases w <;> simp [State.writePorts]
  exact (State.devWrite_bus s d p w v).resolve_left fun h' => hone h'.2

/-- A DEI that reaches a device answers the device's value and leaves all but that device alone (R95). -/
theorem dei_reached {m : Mode} {s : State} {pre : List Byte} {p8 : Byte} {v : Nat} (hd : s.slot (slotOf p8) ≠ none)
    (hr : EffectReady m.keep (s.stack (activeStack m)) pre [p8] (valueBytes m.width v)) :
    let s1 := s.afterCheck m 1 m.width.bytes
    let answer := s1.devRead (slotOf p8) (portOf p8) m.width
    ∃ t, exec (.stack .dei m) s = .next t ∧ t.dev = answer.2.dev ∧ t.pointers = s1.pointers ∧
      InputEffect m s t pre p8 (putBytes m.width answer.1) answer.1 := by
  intro s1 answer
  obtain ⟨hexec, heffect⟩ := deiOp_checked hr
  obtain ⟨hmem, hpc, hws, hrs, -, hsub⟩ := State.devRead_frame s1 (slotOf p8) (portOf p8) m.width
  obtain ⟨hbus, hslots⟩ := State.devRead_reached (s := s1) (by simpa [s1] using hd) (portOf p8) m.width
  have hstack (x : StackSel) : answer.2.stack x = s1.stack x := by
    cases x
    · exact hws
    · exact hrs
  have hpointers : answer.2.pointers = s1.pointers := by simp only [State.pointers, answer, hws, hrs]
  have hother : (answer.2.put (activeStack m) 1 m.width answer.1).stack (otherStack m) = s.stack (otherStack m) :=
    calc (answer.2.put (activeStack m) 1 m.width answer.1).stack (otherStack m)
        = answer.2.stack (otherStack m) := State.stack_other_put ..
      _ = s1.stack (otherStack m) := hstack _
      _ = s.stack (otherStack m) := State.afterCheck_other ..
  refine ⟨(answer.2.put (activeStack m) 1 m.width answer.1).setStatus .cont, hexec, ?_, ?_, ?_, ?_, ?_, ?_, rfl, ?_, ?_, ?_⟩
  · simp
  · simpa using hpointers
  · rw [State.setStatus_stack]
    exact heffect answer.2 (hstack _)
  · simpa using hother
  · simpa [s1, answer] using hbus
  · simpa [s1, answer] using hpc
  · simpa [s1, answer] using hmem
  · simpa [s1, answer] using hsub
  · intro e he
    simpa [s1, answer] using hslots e he

/-- A DEO that reaches a device writes it in the state with both operands popped and leaves all but that device and the pointers
alone (R96). -/
theorem deo_reached {m : Mode} {s : State} {pre : List Byte} {p8 : Byte} {v : Nat} (hd : s.slot (slotOf p8) ≠ none)
    (hv : v < m.width.modulus) (hr : EffectReady m.keep (s.stack (activeStack m)) pre (valueBytes m.width v ++ [p8]) []) :
    let t := (s.afterCheck m (m.width.bytes + 1) 0).devWrite (slotOf p8) (portOf p8) m.width (BitVec.ofNat 16 v)
    exec (.stack .deo m) s = .next (t.setStatus .cont) ∧ OutputFrame m s (t.setStatus .cont) p8 v := by
  intro t
  obtain ⟨hexec, -⟩ := deoOp_checked hv hr
  obtain ⟨hmem, hpc, -, hsub, hws, hrs⟩ := State.devWrite_frame (s.afterCheck m (m.width.bytes + 1) 0) (slotOf p8) (portOf p8)
    m.width (BitVec.ofNat 16 v)
  obtain ⟨hbus, hslots⟩ := State.devWrite_reached (s := s.afterCheck m (m.width.bytes + 1) 0) (by simpa using hd) (portOf p8)
    m.width (BitVec.ofNat 16 v)
  refine ⟨hexec, ?_, hws.trans (State.afterCheck_dat s m _ _ .ws), hrs.trans (State.afterCheck_dat s m _ _ .rs), ?_, rfl, ?_, ?_, ?_⟩
  · simpa using hbus
  · simpa using hpc
  · simpa using hmem
  · simpa using hsub
  · intro e he
    simpa using hslots e he

/-! ### The System device -/

/-- The answer of the System device or a Console lies on a stack as its port bytes (R91). -/
theorem putBytes_portValue (f : BitVec 4 → Byte) (p : BitVec 4) (w : Width) : putBytes w (portValue f p w) = portBytes f p w := by
  cases w
  · simp [portValue, portBytes, putBytes_byte]
  · simp [portValue, portBytes, putBytes_short]

/-- What the System device shows depends on the machine's pointers alone (R25). -/
theorem systemByte_congr {s t : State} (h : t.pointers = s.pointers) (r : SystemPorts) : systemByte t r = systemByte s r := by
  obtain ⟨hws, hrs⟩ := StackPointers.mk.inj h
  funext q
  simp only [systemByte, hws, hrs]

/-- A read of the System device: its port bytes, recorded (R25, R91). -/
theorem State.devRead_system {s : State} {d : BitVec 4} {r : SystemPorts} (h : s.slot d = some (.system r)) (p : BitVec 4)
    (w : Width) : s.devRead d p w =
      (portValue (systemByte s r) p w, s.record ⟨.input, d, p, w, portValue (systemByte s r) p w⟩) := by
  have hports : s.readPorts d p w = portValue (systemByte s r) p w := by
    cases w <;> simp only [State.readPorts, portValue, State.readPort_system s h]
  simp only [State.devRead, h, hports]

/-- A write of the System device: its port writes, recorded (R91). -/
theorem State.devWrite_system {s : State} {d : BitVec 4} {r : SystemPorts} (h : s.slot d = some (.system r)) (p : BitVec 4)
    (w : Width) (v : Short) : s.devWrite d p w v = (s.writePorts d p w v).record ⟨.output, d, p, w, v⟩ := by
  simp only [State.devWrite, h]

end Sys2Proof.Machine

/-! SUPPORT. The statements of 10_state.md, settled from the laws above. -/

namespace Sys2Proof.Machine

/-- Settles O13: every outcome of an instruction keeps byte 255, since a write lies below a pointer that is at most 255. -/
theorem lastBufferByteNeverWritten : Obligations.LastBufferByteNeverWritten := by
  intro s t h
  obtain ⟨i, rest, -, ho⟩ := step_outcome_of_eq h
  exact ho.topBytesKept

/-- Settles O14: every outcome of an instruction keeps the device kinds and the parameter. -/
theorem slotContentsAndParameterFixed : Obligations.SlotContentsAndParameterFixed := by
  intro s t h
  obtain ⟨i, rest, -, ho⟩ := step_outcome_of_eq h
  exact ho.kindsKept

/-- Settles O17: the step from the state with an empty record gives `t` and the new events; another status and record are a history
that the step carries along. -/
theorem statusAndBusRecordAreNeverRead : Obligations.StatusAndBusRecordAreNeverRead := by
  intro s
  obtain ⟨-, -, t, -, ht, -⟩ := step_outcome { s with bus := [] }
  refine ⟨t, t.bus, fun r b => ?_⟩
  calc step { s with status := r, bus := b }
      = step (State.withHistory { s with bus := [] } r b) := by simp only [State.withHistory, List.append_nil]
    _ = Result.recordedAfter b (step { s with bus := [] }) := step_withHistory ..
    _ = .next { t with bus := b ++ t.bus } := by rw [ht]; rfl

/-- Settles O6: `fetchBytes` is the three bytes and `afterFetch` moves the pc by 1. -/
theorem stepRunsDecodedInstruction : Obligations.StepRunsDecodedInstruction :=
  fun _ _ _ h => step_of_decode h

/-- Settles O48: the device is read after the check, and no pointer moves after that. -/
theorem deiReadsSystemPorts : Obligations.DeiReadsSystemPorts := by
  intro m p8 s pre r hslot hr
  obtain ⟨t, hexec, hdev, hpointers, heffect⟩ := dei_reached (by simp [hslot]) hr
  rw [State.devRead_system ((State.afterCheck_slot ..).trans hslot)] at hdev heffect
  rw [putBytes_portValue] at heffect
  refine ⟨t, hexec, by simpa using hdev, ?_⟩
  rwa [systemByte_congr hpointers]

/-- Settles O51: the ports are written in the state with both operands popped. -/
theorem deoWritesSystemPortsAndPointers : Obligations.DeoWritesSystemPortsAndPointers := by
  intro m p8 v s pre r hslot hv hr
  obtain ⟨hexec, hframe⟩ := deo_reached (by simp [hslot]) hv hr
  obtain ⟨-, hcount, -, -⟩ := hr.counts
  have hpopped := State.afterCheck_popped_sp (s := s) (m := m) (c := m.width.bytes + 1) (by simpa using hcount)
  have hslot' := (State.afterCheck_slot s m (m.width.bytes + 1) 0 (slotOf p8)).trans hslot
  obtain ⟨r', hr', hstorage, hws, hrs⟩ := State.writePorts_system_effect hslot' (portOf p8) m.width v
  rw [Nat.add_comm 1]
  refine ⟨_, r', hexec, ?_, hstorage, ?_, ?_, hframe⟩ <;> rw [State.devWrite_system hslot']
  · exact hr'
  · rw [← hpopped .ws]
    exact hws
  · rw [← hpopped .rs]
    exact hrs

/-- Settles O11: memory at creation lists nothing, and the empty list is canonical. -/
theorem resetMemoryIsCanonical : Obligations.ResetMemoryIsCanonical := Memory.wf_reset

/-- Settles O12: the fields of `State.reset`, read through its stacks and slots. -/
theorem resetStateValues : Obligations.ResetStateValues := by
  refine ⟨fun _ => rfl, rfl, fun x => ?_, rfl, rfl, rfl, ?_, ?_, fun d => State.reset_slot_none⟩
  · rw [State.reset_stack]
    exact ⟨rfl, fun j h => Vector.getElem_replicate h⟩
  · exact ⟨SystemPorts.fresh, rfl, SystemPorts.read_fresh⟩
  · exact ⟨Vector.replicate 16 0, rfl, fun p h => Vector.getElem_replicate h⟩

end Sys2Proof.Machine

/-! SUPPORT. What an instruction can do to memory (20_memory.md R29, 44_memory_ops.md), and the one capacity check on the active stack that
every operation but DIV and DEO begins with (R32, 30_encoding.md R50). -/

namespace Sys2Proof.Machine

/-! ### Memory -/

/-- A store makes of equal memories equal memories, whatever else the states hold. -/
theorem State.memWrite_mem_congr {s u : State} (h : u.mem = s.mem) (a : Short) (w : Width) (v : Short) :
    (u.memWrite a w v).mem = (s.memWrite a w v).mem := by
  cases w <;> simp only [State.memWrite, State.setByte_mem, h]

/-- All that an instruction can do to memory: nothing, or one `MemWrite` of a form of STZ, STR or STA (R29). -/
theorem Outcome.mem_cases {i : Instr} {s t : State} (h : Outcome i s t) :
    t.mem = s.mem ∨ ∃ op m a v, (op = .stz ∨ op = .str ∨ op = .sta) ∧ i = .stack op m ∧ t.mem = (s.memWrite a m.width v).mem := by
  cases h with
  | halted | faulted => exact .inl rfl
  | faultedAtSecondCheck => exact .inl (State.setStack_mem ..)
  | completed _ _ hout _ => exact .inl hout.1
  | stored op m a v hop hi hout _ => exact .inr ⟨op, m, a, v, hop, hi, State.memWrite_mem_congr hout.1 a m.width v⟩
  | @input u m d p _ hout _ _ =>
    obtain ⟨hread, -⟩ := State.devRead_frame u d p m.width
    exact .inl ((State.put_mem ..).trans (hread.trans hout.1))
  | @output u m d p v _ hout _ =>
    obtain ⟨hwrite, -⟩ := State.devWrite_frame u d p m.width v
    exact .inl (hwrite.trans hout.1)

/-- Every outcome of an instruction keeps the canonical form of memory. -/
theorem Outcome.inv {i : Instr} {s t : State} (h : Outcome i s t) (hs : s.Inv) : t.Inv := by
  rcases h.mem_cases with hmem | ⟨op, m, a, v, -, -, hmem⟩
  · exact (State.inv_of_mem_eq hmem).mpr hs
  · exact (State.inv_of_mem_eq hmem).mpr (State.inv_memWrite hs a m.width v)

/-! ### The check on the active stack -/

section
variable (m : Mode) (s : State)

theorem binaryOp_reserving (g : Short → Short → Short) :
    ∃ f, binaryOp g m s = s.reserving (activeStack m) (2 * m.width.bytes) m.width.bytes m.keep f := by
  simp only [binaryOp]
  exact ⟨_, rfl⟩

theorem compareOp_reserving (rel : Short → Short → Bool) :
    ∃ f, compareOp rel m s = s.reserving (activeStack m) (2 * m.width.bytes) 1 m.keep f := by
  simp only [compareOp]
  exact ⟨_, rfl⟩

theorem loadByteAddr_reserving (addr : Byte → Short) :
    ∃ f, loadByteAddr addr m s = s.reserving (activeStack m) 1 m.width.bytes m.keep f := by
  simp only [loadByteAddr]
  exact ⟨_, rfl⟩

theorem storeByteAddr_reserving (addr : Byte → Short) :
    ∃ f, storeByteAddr addr m s = s.reserving (activeStack m) (m.width.bytes + 1) 0 m.keep f := by
  simp only [storeByteAddr]
  exact ⟨_, rfl⟩

/-- Every operation but DIV and DEO is a check of its own counts on the active stack, then the rest (R32, R50). -/
theorem opMeaning_reserving {op : Op} (hdiv : op ≠ .div) (hdeo : op ≠ .deo) :
    ∃ f, opMeaning op m s = s.reserving (activeStack m) (op.consumed m.width) (op.produced m.width) m.keep f := by
  cases op
  case div => exact absurd rfl hdiv
  case deo => exact absurd rfl hdeo
  case add | mul | and | or | xor => exact binaryOp_reserving ..
  case sub =>
    simp only [opMeaning, subOp]
    split <;> exact binaryOp_reserving ..
  case equ | neq | gth | lth => exact compareOp_reserving ..
  case ldz | ldr => exact loadByteAddr_reserving ..
  case stz | str => exact storeByteAddr_reserving ..
  case inc | pop | nip | swp | rot | dup | ovr | jmp | jcn | jsr | sth | lda | sta | dei | sft =>
    simp only [opMeaning, incOp, popOp, nipOp, swpOp, rotOp, dupOp, ovrOp, jmpOp, jcnOp, jsrOp, sthOp, ldaOp, staOp, deiOp, sftOp]
    exact ⟨_, rfl⟩

end
end Sys2Proof.Machine

/-! SUPPORT. The statements of 20_memory.md, settled from the laws above. -/

namespace Sys2Proof.Machine

/-- Settles O10: a step is an outcome of the decoded instruction, and every outcome keeps the canonical form. -/
theorem stepKeepsMemoryCanonical : Obligations.StepKeepsMemoryCanonical := by
  intro s t hs h
  obtain ⟨i, rest, -, ho⟩ := step_outcome_of_eq h
  have hfetched : s.afterFetch.Inv := (State.inv_of_mem_eq rfl).mpr hs
  exact ho.inv hfetched

/-- Settles O16: an outcome with another memory is a store's. -/
theorem onlyStoresChangeMemory : Obligations.OnlyStoresChangeMemory := by
  intro i s t a h hne
  rcases (exec_outcome_of_eq h).mem_cases with hmem | ⟨op, m, -, -, hop, rfl, -⟩
  · exact absurd (by simp only [State.byteAt, hmem]) hne
  · rcases hop with rfl | rfl | rfl
    · exact ⟨m, .inl rfl⟩
    · exact ⟨m, .inr (.inl rfl)⟩
    · exact ⟨m, .inr (.inr rfl)⟩

/-- Settles O19: the check on the active stack comes first, and raises in the state as it is. -/
theorem tooFewBytesRaiseUnderflow : Obligations.TooFewBytesRaiseUnderflow := by
  intro op m s hdiv hdeo hfew
  obtain ⟨f, hf⟩ := opMeaning_reserving m s hdiv hdeo
  rw [exec_stack, hf, State.reserving_underflow hfew]
  rfl

/-- Settles O20: the check on the active stack comes first, and raises in the state as it is. -/
theorem tooManyBytesRaiseOverflow : Obligations.TooManyBytesRaiseOverflow := by
  intro op m s hdiv hdeo henough hmany
  obtain ⟨f, hf⟩ := opMeaning_reserving m s hdiv hdeo
  rw [exec_stack, hf, State.reserving_overflow henough hmany]
  rfl

/-- Settles O18: the three answers of `reserve`; the committed pointer is the new one, since 8 bits hold up to 255. -/
theorem reserveChecksAndCommitsPointer : Obligations.ReserveChecksAndCommitsPointer := fun _ _ _ _ =>
  ⟨Stack.reserve_underflow, Stack.reserve_overflow, fun hc hn => ⟨_, Stack.reserve_ok hc hn, Stack.setSp_toNat hn, rfl⟩⟩

end Sys2Proof.Machine

/-! SUPPORT. The bit fields of an instruction byte (30_encoding.md R44-R48): the base operation is read from the low five bits alone. -/

namespace Sys2Proof

/-- The base operation numbered by five bits (R48). No operation has number 0 (R45), and what stands there is never run. -/
def baseOp (x : BitVec 5) : Op := (opOf (x.setWidth 8)).getD .inc

/-- Bits 7, 6 and 5 are no part of the operation's number (R46). -/
theorem opOf_congr {b c : Byte} (h : b.extractLsb' 0 5 = c.extractLsb' 0 5) : opOf b = opOf c := by
  simp only [opOf, h]

/-- Five bits are the low bits of the byte they make, which `baseOp` reads. -/
theorem lowBits_setWidth (x : BitVec 5) : (x.setWidth 8 : Byte).extractLsb' 0 5 = x := by
  rw [BitVec.extractLsb'_setWidth_of_le (by decide), BitVec.extractLsb'_eq_self]

/-- Where the low five bits are not 0 they number an operation (R45, R48). -/
theorem opOf_eq_baseOp {b : Byte} (h : b.extractLsb' 0 5 ≠ 0) : opOf b = some (baseOp (b.extractLsb' 0 5)) := by
  have hnum : opOf b = opOf ((b.extractLsb' 0 5).setWidth 8) := opOf_congr (lowBits_setWidth _).symm
  cases hop : opOf b with
  | none => exact absurd (BitVec.eq_of_toNat_eq (by simpa using low_bits_zero_of_opOf_eq_none hop)) h
  | some op => rw [baseOp, ← hnum, hop, Option.getD_some]

/-- A byte that numbers an operation is the whole instruction, run with the flags of its bits 7, 6 and 5 (R44, R46). -/
theorem decode_of_opOf {b : Byte} {op : Op} (h : opOf b = some op) (rest : List Byte) :
    decode (b :: rest) = .ok (.stack op (modeOf b), rest) := by
  simp only [decode, h]

end Sys2Proof

/-! SUPPORT. The statements of 30_encoding.md, settled from the laws above. -/

namespace Sys2Proof.Machine

/-- Settles O7: three bytes are enough for any instruction, and every instruction ends in an outcome. -/
theorem stepAlwaysAnswersNextState : Obligations.StepAlwaysAnswersNextState := by
  intro s
  obtain ⟨-, -, t, -, ht, -⟩ := step_outcome s
  exact ⟨t, ht⟩

/-- Settles O5: an immediate byte is read off the decoder's table, and `baseOp` is the one function of the low five bits. -/
theorem dispatchOnByteFields : Obligations.DispatchOnByteFields :=
  ⟨fun _ _ _ _ => ⟨rfl, rfl, rfl, rfl, rfl, rfl, rfl, rfl⟩,
    baseOp, fun _ rest h => decode_of_opOf (opOf_eq_baseOp h) rest⟩

/-- Settles O3: the decoder evaluated on the fourteen words. -/
theorem sampleWordsDecode : Obligations.SampleWordsDecode := by
  unfold Obligations.SampleWordsDecode
  decide

end Sys2Proof.Machine

/-! SUPPORT. The immediate opcodes (40_immediate.md R57-R63): what each completes with and where its one capacity check raises. -/

namespace Sys2Proof.Machine

/-- The pc past a two-byte operand plus the offset, as integer arithmetic (R51). -/
theorem State.inlineTarget_skip (s : State) (d : Short) :
    (s.skip 2).inlineTarget d = BitVec.ofInt 16 ((s.pc.toNat : Int) + 2 + d.toInt) :=
  (inlineTarget_eq s.pc d).symm

/-- The condition of a jump (R57). -/
theorem nonZero_iff {f : Byte} : nonZero f = true ↔ f ≠ 0 := bne_iff_ne

/-- Taking bytes off a stack needs no room. -/
theorem EffectReady.pop {st : Stack} {pre before : List Byte} (h : st.contents = pre ++ before) :
    EffectReady false st pre before [] := by
  refine ⟨h, ?_⟩
  have hlen := st.length_contents
  have hsp := st.sp.isLt
  rw [h, List.length_append] at hlen
  simp only [effectResult, List.length_append, Bool.false_eq_true, if_false, List.length_nil]
  omega

section
variable {d : Short} {s : State}

/-- JCI with a condition on ws pops it, and jumps where it is not 0 (R57). -/
theorem execJci_effect {pre : List Byte} {f : Byte} (h : s.ws.contents = pre ++ [f]) :
    ∃ t, execJci d s = .next t ∧ StackEffect false s.ws t.ws pre [f] [] ∧ t.rs = s.rs ∧
      t.pc = (if f ≠ 0 then BitVec.ofInt 16 ((s.pc.toNat : Int) + 2 + d.toInt) else s.pc + 2) ∧ t.status = .cont ∧
      SameOutside s t := by
  have hready := EffectReady.pop h
  obtain ⟨-, hcount, -, hroom⟩ := hready.counts
  have hcond : (s.skip 2).peekByte .ws 1 = f := State.peekByte_contents (r := []) h
  have hpop := StackEffect.put_none hready
  simp only [execJci]
  rw [State.reserving_ok (s := s.skip 2) (x := .ws) (c := 1) (p := 0) hcount hroom, hcond, State.inlineTarget_skip]
  by_cases hf : f ≠ 0
  · rw [if_pos (nonZero_iff.mpr hf)]
    exact ⟨_, rfl, hpop, rfl, (if_pos hf).symm, rfl, rfl, rfl, rfl, rfl⟩
  · rw [if_neg (mt nonZero_iff.mp hf)]
    exact ⟨_, rfl, hpop, rfl, (if_neg hf).symm, rfl, rfl, rfl, rfl, rfl⟩

/-- JCI with an empty ws (R57, decision D10). -/
theorem execJci_underflow (h : s.ws.sp = 0) : execJci d s = .next (s.stopAt (s.pc + 2) (.fault .underflow)) := by
  simp only [execJci]
  rw [State.reserving_underflow (by simp [h])]
  rfl

/-- JMI moves the pc alone (R58). -/
theorem execJmi_eq : execJmi d s = .next (s.stopAt (BitVec.ofInt 16 ((s.pc.toNat : Int) + 2 + d.toInt)) .cont) := by
  simp only [execJmi]
  rw [State.inlineTarget_skip]
  rfl

/-- JSI with room for two bytes pushes the address after the operand on rs, and jumps (R59). -/
theorem execJsi_effect (h : s.rs.sp.toNat ≤ 253) :
    ∃ t, execJsi d s = .next t ∧
      PushEffect .rs s t (putBytes .short (s.pc + 2)) (BitVec.ofInt 16 ((s.pc.toNat : Int) + 2 + d.toInt)) := by
  have hready : EffectReady false s.rs s.rs.contents [] (putBytes .short (s.pc + 2)) :=
    EffectReady.push (by rw [length_putBytes, Width.bytes]; omega)
  obtain ⟨-, hcount, -, hroom⟩ := hready.counts
  simp only [execJsi]
  rw [State.reserving_ok (s := s.skip 2) (x := .rs) (c := 0) (p := 2) hcount hroom, State.inlineTarget_skip]
  exact ⟨_, rfl, StackEffect.put_one hready, rfl, rfl, rfl, rfl, rfl, rfl, rfl⟩

/-- JSI without room for two bytes (R59, decision D10). -/
theorem execJsi_overflow (h : s.rs.sp.toNat > 253) : execJsi d s = .next (s.stopAt (s.pc + 2) (.fault .overflow)) := by
  have hroom : 255 < newPointer s.rs.sp.toNat 0 2 false := by
    simp only [newPointer, Bool.false_eq_true, if_false]
    omega
  simp only [execJsi]
  rw [State.reserving_overflow (s := s.skip 2) (x := .rs) (Nat.zero_le _) hroom]
  rfl

end

/-- An opcode that is encoded before its operand and runs as the push of it is a literal opcode (R60-R63). -/
theorem literalPushes_of_pushInline {i : Instr} {opcode : Byte} {x : StackSel} {w : Width} {v : Short} {bytes : List Byte}
    (hbytes : putBytes w v = bytes) (hencode : encode i = opcode :: bytes) (hexec : ∀ s, exec i s = pushInline x w v s) :
    LiteralPushes i opcode x bytes := by
  have hlen : bytes.length = w.bytes := by rw [← hbytes, length_putBytes]
  refine ⟨hencode, fun s => ?_⟩
  rw [hexec, hlen, ← hbytes]
  exact ⟨pushInline_effect, pushInline_overflow⟩

end Sys2Proof.Machine

/-! SUPPORT. The statements of 40_immediate.md, settled from the laws above. -/

namespace Sys2Proof.Machine

/-- Settles O22: the two outcomes of JCI's check of one byte on ws; the condition decides the jump. -/
theorem jciJumpsIfTopNonZero : Obligations.JciJumpsIfTopNonZero :=
  fun _ => ⟨rfl, fun _ _ _ => execJci_effect, fun _ => execJci_underflow⟩

/-- Settles O24: the two outcomes of JSI's check of two bytes of room on rs. -/
theorem jsiCallsThroughRs : Obligations.JsiCallsThroughRs :=
  fun _ => ⟨rfl, fun _ => execJsi_effect, fun _ => execJsi_overflow⟩

/-- Settles O25: the four literal opcodes are one push, of a byte or of a short, on ws or on rs. -/
theorem literalsPushInlineOperand : Obligations.LiteralsPushInlineOperand := by
  refine ⟨fun v => ?_, fun v => ?_⟩
  · have hbytes : putBytes .byte (zext16 v) = [v] := by rw [putBytes_byte, loByte_zext16]
    exact ⟨literalPushes_of_pushInline hbytes rfl fun _ => rfl, literalPushes_of_pushInline hbytes rfl fun _ => rfl⟩
  · have hbytes := putBytes_short v
    exact ⟨literalPushes_of_pushInline hbytes rfl fun _ => rfl, literalPushes_of_pushInline hbytes rfl fun _ => rfl⟩

/-- Settles O21: `halt` writes the status alone, and the pc past the byte is the one it is given. -/
theorem brkHaltsInPlace : Obligations.BrkHaltsInPlace := fun _ => rfl

/-- Settles O23: the pc past the operand plus the offset is the target. -/
theorem jmiJumps : Obligations.JmiJumps := fun _ => ⟨rfl, fun _ => execJmi_eq⟩

end Sys2Proof.Machine

/-! SUPPORT. A form that puts values on its active stack after its one check (20_memory.md R32-R35): the puts of one, two or three
results, none of which touches anything but that stack. -/

namespace Sys2Proof.Machine

/-- A put on a stack is part of the replacement of that stack. -/
theorem State.put_setStack (s : State) (x : StackSel) (st : Stack) (i : Nat) (w : Width) (v : Short) :
    (s.setStack x st).put x i w v = s.setStack x (st.put i w v) := by
  cases x <;> rfl

/-- The operand on top lies at offset 1 (R33). -/
theorem State.peek_one {s : State} {x : StackSel} {w : Width} {pre : List Byte} {a : Nat} (ha : a < w.modulus)
    (h : (s.stack x).contents = pre ++ valueBytes w a) : s.peek x 1 w = BitVec.ofNat 16 a :=
  State.peek_contents (r := []) ha (by rw [h, List.append_nil])

/-- Two values take twice the width. -/
theorem length_two_values (w : Width) (a b : Nat) : 2 * w.bytes = (valueBytes w a ++ valueBytes w b).length := by
  simp only [List.length_append, length_valueBytes]
  omega

/-- Three values take three times the width. -/
theorem length_three_values (w : Width) (a b c : Nat) :
    3 * w.bytes = (valueBytes w a ++ valueBytes w b ++ valueBytes w c).length := by
  simp only [List.length_append, length_valueBytes]
  omega

section
variable {m : Mode} {s : State} {pre before : List Byte} {c : Nat}

/-- Replacing the active stack changes nothing but that stack and the outcome. -/
theorem ActiveEffect.of_setStack {after : List Byte} {st : Stack}
    (h : StackEffect m.keep (s.stack (activeStack m)) st pre before after) :
    ActiveEffect m s ((s.setStack (activeStack m) st).setStatus .cont) pre before after s.pc := by
  refine ⟨?_, ?_, ?_, State.setStatus_status .., ?_, ?_, ?_, ?_⟩
  · rwa [State.setStatus_stack, State.stack_setStack]
  · exact (State.setStatus_stack ..).trans (State.stack_other_setStack ..)
  · exact State.setStack_pc ..
  · exact State.setStack_mem ..
  · exact State.setStack_dev ..
  · exact State.setStack_bus ..
  · exact State.setStack_sub8Adds ..

/-- A check with no put after it consumes the operands (R66). -/
theorem State.reserving_put_none (hr : EffectReady m.keep (s.stack (activeStack m)) pre before []) (hc : c = before.length) :
    ∃ t, s.reserving (activeStack m) c 0 m.keep State.complete = .next t ∧ ActiveEffect m s t pre before [] s.pc := by
  subst hc
  exact State.reserving_active hr rfl rfl rfl (ActiveEffect.of_setStack (StackEffect.put_none hr))

/-- A check, then the put of one result. -/
theorem State.reserving_put_one {a : Nat}
    (hr : EffectReady m.keep (s.stack (activeStack m)) pre before (valueBytes m.width a)) (hc : c = before.length) :
    ∃ t, (s.reserving (activeStack m) c m.width.bytes m.keep fun s' =>
        (s'.put (activeStack m) 1 m.width (BitVec.ofNat 16 a)).complete) = .next t ∧
      ActiveEffect m s t pre before (valueBytes m.width a) s.pc := by
  subst hc
  simp only [← putBytes_ofNat] at hr ⊢
  refine State.reserving_active hr rfl (length_putBytes ..).symm ?_ (ActiveEffect.of_setStack (StackEffect.put_one hr))
  simp only [State.put_setStack, State.complete]

/-- A check, then the puts of two results. -/
theorem State.reserving_put_two {a b : Nat}
    (hr : EffectReady m.keep (s.stack (activeStack m)) pre before (valueBytes m.width a ++ valueBytes m.width b))
    (hc : c = before.length) :
    ∃ t, (s.reserving (activeStack m) c (2 * m.width.bytes) m.keep fun s' =>
        ((s'.put (activeStack m) (m.width.bytes + 1) m.width (BitVec.ofNat 16 a)).put (activeStack m) 1 m.width
          (BitVec.ofNat 16 b)).complete) = .next t ∧
      ActiveEffect m s t pre before (valueBytes m.width a ++ valueBytes m.width b) s.pc := by
  subst hc
  simp only [← putBytes_ofNat] at hr ⊢
  refine State.reserving_active hr rfl (length_two_values ..) ?_ (ActiveEffect.of_setStack (StackEffect.put_two hr))
  simp only [State.put_setStack, State.complete]

/-- A check, then the puts of three results. -/
theorem State.reserving_put_three {a b d : Nat}
    (hr : EffectReady m.keep (s.stack (activeStack m)) pre before
      (valueBytes m.width a ++ valueBytes m.width b ++ valueBytes m.width d)) (hc : c = before.length) :
    ∃ t, (s.reserving (activeStack m) c (3 * m.width.bytes) m.keep fun s' =>
        (((s'.put (activeStack m) (2 * m.width.bytes + 1) m.width (BitVec.ofNat 16 a)).put (activeStack m) (m.width.bytes + 1)
          m.width (BitVec.ofNat 16 b)).put (activeStack m) 1 m.width (BitVec.ofNat 16 d)).complete) = .next t ∧
      ActiveEffect m s t pre before (valueBytes m.width a ++ valueBytes m.width b ++ valueBytes m.width d) s.pc := by
  subst hc
  simp only [← putBytes_ofNat] at hr ⊢
  refine State.reserving_active hr rfl (length_three_values ..) ?_ (ActiveEffect.of_setStack (StackEffect.put_three hr))
  simp only [State.put_setStack, State.complete]

end

end Sys2Proof.Machine

/-! SUPPORT. The statements of 41_stack.md, settled from the laws above. -/

namespace Sys2Proof.Machine

/-- Settles O26: the sum in 16 bits lies on the stack as the sum mod 2^(8w) does. -/
theorem incAddsOne : Obligations.IncAddsOne := by
  intro m a ha s pre hr
  have htop := State.peek_one ha hr.1
  have hsum : (BitVec.ofNat 16 a + 1 : Short) = BitVec.ofNat 16 (a + 1) := (BitVec.ofNat_add a 1).symm
  rw [valueBytes_mod] at hr ⊢
  simp only [exec_stack, opMeaning, incOp, htop, hsum]
  exact State.reserving_put_one hr (length_valueBytes ..).symm

/-- Settles O27: the check alone consumes the operand. -/
theorem popDiscardsTop : Obligations.PopDiscardsTop := by
  intro m a _ s pre hr
  simp only [exec_stack, opMeaning, popOp]
  exact State.reserving_put_none hr (length_valueBytes ..).symm

/-- Settles O28: of the two operands the top one is put. -/
theorem nipRemovesSecond : Obligations.NipRemovesSecond := by
  intro m a b ha hb s pre hr
  obtain ⟨-, htop⟩ := State.peek_two ha hb hr.1
  simp only [exec_stack, opMeaning, nipOp, htop]
  exact State.reserving_put_one hr (length_two_values ..)

/-- Settles O29: both operands are read before the first put. -/
theorem swpExchangesTopTwo : Obligations.SwpExchangesTopTwo := by
  intro m a b ha hb s pre hr
  obtain ⟨hsecond, htop⟩ := State.peek_two ha hb hr.1
  simp only [exec_stack, opMeaning, swpOp, hsecond, htop]
  exact State.reserving_put_two hr (length_two_values ..)

/-- Settles O30: the three operands are read before the first put. -/
theorem rotBringsThirdToTop : Obligations.RotBringsThirdToTop := by
  intro m a b c ha hb hc s pre hr
  obtain ⟨hthird, hsecond, htop⟩ := State.peek_three ha hb hc hr.1
  simp only [exec_stack, opMeaning, rotOp, hthird, hsecond, htop]
  exact State.reserving_put_three hr (length_three_values ..)

/-- Settles O31: the operand is put twice. -/
theorem dupCopiesTop : Obligations.DupCopiesTop := by
  intro m a ha s pre hr
  have htop := State.peek_one ha hr.1
  simp only [exec_stack, opMeaning, dupOp, htop]
  exact State.reserving_put_two hr (length_valueBytes ..).symm

/-- Settles O32: the deeper operand is put below and above the top one. -/
theorem ovrCopiesSecond : Obligations.OvrCopiesSecond := by
  intro m a b ha hb s pre hr
  obtain ⟨hsecond, htop⟩ := State.peek_two ha hb hr.1
  simp only [exec_stack, opMeaning, ovrOp, hsecond, htop]
  exact State.reserving_put_three hr (length_two_values ..)

end Sys2Proof.Machine

/-! SUPPORT. The comparisons (42_compare.md R72-R76): the relation of two operands as they lie in 16 bits is the relation of their values,
and what every form of a comparison completes with. -/

namespace Sys2Proof.Machine

/-- The byte of a relation that holds is 0x01, else 0x00 (R72). -/
theorem loByte_boolByte_decide (p : Prop) [Decidable p] : loByte (boolByte (decide p)) = if p then 0x01 else 0x00 := by
  by_cases h : p
  · rw [decide_eq_true h, if_pos h]
    rfl
  · rw [decide_eq_false h, if_neg h]
    rfl

/-- An operand is carried in 16 bits without loss (R9). -/
theorem toNat_ofNat_of_lt_modulus {w : Width} {a : Nat} (ha : a < w.modulus) : (BitVec.ofNat 16 a).toNat = a :=
  (BitVec.toNat_ofNat ..).trans (Nat.mod_eq_of_lt (Width.lt_65536 ha))

section
variable {w : Width} {a b : Nat} (ha : a < w.modulus) (hb : b < w.modulus)
include ha hb

/-- All bits of the width are compared (R73). -/
theorem beq_ofNat : (BitVec.ofNat 16 a == BitVec.ofNat 16 b) = decide (a = b) := by
  rw [Bool.eq_iff_iff, beq_iff_eq, decide_eq_true_iff, ← BitVec.toNat_inj, toNat_ofNat_of_lt_modulus ha, toNat_ofNat_of_lt_modulus hb]

/-- One differing bit of the width is enough (R74). -/
theorem bne_ofNat : (BitVec.ofNat 16 a != BitVec.ofNat 16 b) = decide (a ≠ b) := by
  rw [bne, beq_ofNat ha hb, decide_not]

/-- The unsigned order of the operands (R75). -/
theorem greater_ofNat : greater (BitVec.ofNat 16 a) (BitVec.ofNat 16 b) = decide (a > b) := by
  rw [greater, toNat_ofNat_of_lt_modulus ha, toNat_ofNat_of_lt_modulus hb]

/-- The unsigned order of the operands (R76). -/
theorem less_ofNat : less (BitVec.ofNat 16 a) (BitVec.ofNat 16 b) = decide (a < b) := by
  rw [less, toNat_ofNat_of_lt_modulus ha, toNat_ofNat_of_lt_modulus hb]

end

/-- An operation whose meaning is the comparison by `rel` pushes the byte of the proposition `rel` decides on its operands (R72). -/
theorem formEffect_of_compareOp {op : Op} {rel : Short → Short → Bool} {m : Mode} {a b : Nat} {p : Prop} [Decidable p]
    (hop : opMeaning op m = compareOp rel m) (hrel : rel (BitVec.ofNat 16 a) (BitVec.ofNat 16 b) = decide p)
    (ha : a < m.width.modulus) (hb : b < m.width.modulus) :
    FormEffect op m (valueBytes m.width a ++ valueBytes m.width b) [if p then 0x01 else 0x00] := by
  intro s pre hr
  have hbyte := loByte_boolByte_decide p
  rw [← hrel] at hbyte
  rw [exec_stack, hop]
  exact compareOp_effect hbyte.symm ha hb s pre hr

end Sys2Proof.Machine

/-! SUPPORT. The statements of 42_compare.md, settled from the laws above. -/

namespace Sys2Proof.Machine

/-- Settles O33: equality of two operands of a width is equality of the shorts that carry them. -/
theorem equNeqPushEquality : Obligations.EquNeqPushEquality := fun _ _ _ ha hb =>
  ⟨formEffect_of_compareOp rfl (beq_ofNat ha hb) ha hb, formEffect_of_compareOp rfl (bne_ofNat ha hb) ha hb⟩

/-- Settles O34: the unsigned order of two operands is the order of the shorts that carry them, the deeper one on the left. -/
theorem gthLthPushUnsignedOrder : Obligations.GthLthPushUnsignedOrder := fun _ _ _ ha hb =>
  ⟨formEffect_of_compareOp rfl (greater_ofNat ha hb) ha hb, formEffect_of_compareOp rfl (less_ofNat ha hb) ha hb⟩

end Sys2Proof.Machine

/-! SUPPORT. Control transfer and stash (43_control.md R77-R80): one check and a jump, and the two checks of JSR and STH, which pop from the
active stack and push on the other. -/

namespace Sys2Proof.Machine

/-- Setting the pc to where it is changes nothing. -/
theorem State.setPc_self {s : State} {p : Short} (h : s.pc = p) : s.setPc p = s := by
  subst h
  rfl

/-- A check that only consumes needs no room (R32). -/
theorem newPointer_pop_le (st : Stack) (c : Nat) (k : Bool) : newPointer st.sp.toNat c 0 k ≤ 255 := by
  have hsp := st.sp.isLt
  unfold newPointer
  split <;> omega

section
variable {m : Mode} {s : State} {pre before : List Byte} {c : Nat} {pc' : Short}

/-! ### One check -/

/-- A jump is the effect with another pc. -/
theorem ActiveEffect.setPc {t : State} {after : List Byte} {pc : Short} (h : ActiveEffect m s t pre before after pc) (pc' : Short) :
    ActiveEffect m s (t.setPc pc') pre before after pc' := by
  obtain ⟨hactive, hother, -, hstatus, hout⟩ := h
  exact ⟨by rwa [State.setPc_stack], by rwa [State.setPc_stack], rfl, hstatus, hout⟩

/-- A check with a jump after it consumes the operands (R77). -/
theorem State.reserving_jump (hr : EffectReady m.keep (s.stack (activeStack m)) pre before []) (hc : c = before.length) :
    ∃ t, (s.reserving (activeStack m) c 0 m.keep fun s' => (s'.setPc pc').complete) = .next t ∧
      ActiveEffect m s t pre before [] pc' := by
  subst hc
  exact State.reserving_active hr rfl rfl rfl ((ActiveEffect.of_setStack (StackEffect.put_none hr)).setPc pc')

/-- A check that only consumes goes on once its operands are there. -/
theorem State.reserving_pop {f : State → Result} (hc : c ≤ (s.stack (activeStack m)).sp.toNat) :
    s.reserving (activeStack m) c 0 m.keep f = f (s.afterCheck m c 0) :=
  State.reserving_ok hc (newPointer_pop_le ..)

/-! ### Two checks -/

/-- `before` was popped from the active stack, `pushed` lies on the other, the pc is at `pc'` and nothing else changed (R79, R80). -/
def TransferEffect (m : Mode) (s t : State) (pre before pushed : List Byte) (pc' : Short) : Prop :=
  StackEffect m.keep (s.stack (activeStack m)) (t.stack (activeStack m)) pre before [] ∧
  StackEffect false (s.stack (otherStack m)) (t.stack (otherStack m)) (s.stack (otherStack m)).contents [] pushed ∧
  t.pc = pc' ∧ t.status = .cont ∧ SameOutside s t

/-- Both checks pass: the operands leave the active stack and `v` goes to the other one. -/
theorem State.reserving_transfer {w : Width} {v : Short} {f : State → Result}
    (hr : EffectReady m.keep (s.stack (activeStack m)) pre before []) (hc : c = before.length)
    (hroom : (s.stack (otherStack m)).sp.toNat + w.bytes ≤ 255)
    (hf : ∀ u : State, u.pc = s.pc → f u = ((u.put (otherStack m) 1 w v).setPc pc').complete) :
    ∃ t, s.reserving (activeStack m) c 0 m.keep (fun s1 => s1.reserving (otherStack m) 0 w.bytes false f) = .next t ∧
      TransferEffect m s t pre before (putBytes w v) pc' := by
  subst hc
  obtain ⟨-, hpop, -, -⟩ := hr.counts
  have hpush : EffectReady false (s.stack (otherStack m)) (s.stack (otherStack m)).contents [] (putBytes w v) :=
    EffectReady.push (by rwa [length_putBytes])
  obtain ⟨-, -, -, hfits⟩ := hpush.counts
  rw [length_putBytes] at hfits
  have hother : (s.afterCheck m before.length 0).stack (otherStack m) = s.stack (otherStack m) := State.afterCheck_other ..
  rw [State.reserving_pop hpop, State.reserving_ok (Nat.zero_le _) (by rwa [hother]),
    hf _ ((State.setStack_pc ..).trans (State.afterCheck_pc ..)), hother, State.put_setStack]
  refine ⟨_, rfl, ?_, ?_, rfl, rfl, by simp [SameOutside]⟩
  · rw [State.setStatus_stack, State.setPc_stack, otherStack, State.stack_setStack_other, State.afterCheck, State.stack_setStack]
    exact StackEffect.put_none hr
  · rw [State.setStatus_stack, State.setPc_stack, State.stack_setStack]
    have heffect := StackEffect.put_one hpush
    rwa [List.length_nil] at heffect

/-- The second check fails: Overflow, with the pointer change of the first (decision D6). -/
theorem State.reserving_other_full {p : Nat} {f : State → Result} (hc : c ≤ (s.stack (activeStack m)).sp.toNat)
    (hfull : (s.stack (otherStack m)).sp.toNat + p > 255) :
    s.reserving (activeStack m) c 0 m.keep (fun s1 => s1.reserving (otherStack m) 0 p false f) =
      .next ((s.withSp (activeStack m) (poppedSp m s c (activeStack m))).stopAt s.pc (.fault .overflow)) := by
  have hstate : s.afterCheck m c 0 = s.withSp (activeStack m) (poppedSp m s c (activeStack m)) := by
    rw [State.afterCheck, State.withSp, Stack.setSp_popped hc]
  have hroom : 255 < newPointer ((s.afterCheck m c 0).stack (otherStack m)).sp.toNat 0 p false := by
    rwa [State.afterCheck_other]
  rw [State.reserving_pop hc, State.reserving_overflow (Nat.zero_le _) hroom, State.raise, State.stopAt, ← hstate,
    State.setPc_self (State.afterCheck_pc ..)]

end

end Sys2Proof.Machine

/-! SUPPORT. The statements of 43_control.md, settled from the laws above. -/

namespace Sys2Proof.Machine

/-- Settles O35: the target is the operand on top, read before the pop. -/
theorem jmpGoesToTarget : Obligations.JmpGoesToTarget := by
  intro m a s pre ha hr
  have htop := State.peek_one ha hr.1
  simp only [exec_stack, opMeaning, jmpOp, htop, jumpTarget_eq ha]
  exact State.reserving_jump hr (length_valueBytes ..).symm

/-- Settles O36: both operands are popped by the one check; the byte below the target decides the pc. -/
theorem jcnGoesToTargetIfNonZero : Obligations.JcnGoesToTargetIfNonZero := by
  intro m f a s pre ha hr
  have htop : s.peek (activeStack m) 1 m.width = BitVec.ofNat 16 a :=
    State.peek_one (pre := pre ++ [f]) ha (by rw [hr.1, List.append_cons])
  have hcond : s.peekByte (activeStack m) (m.width.bytes + 1) = f := by
    have h := State.peekByte_contents hr.1
    rwa [length_valueBytes] at h
  have hlen : m.width.bytes + 1 = (f :: valueBytes m.width a).length := by rw [List.length_cons, length_valueBytes]
  simp only [exec_stack, opMeaning, jcnOp, htop, hcond, jumpTarget_eq ha, nonZero_iff]
  by_cases hf : f ≠ 0
  · simp only [if_pos hf]
    exact State.reserving_jump hr hlen
  · simp only [if_neg hf]
    exact State.reserving_put_none hr hlen

/-- Settles O37: the transfer of the return address, then the jump to the operand read before the pop. -/
theorem jsrPushesReturnOnOtherStack : Obligations.JsrPushesReturnOnOtherStack := by
  intro m a s pre ha hr hroom
  have htop := State.peek_one ha hr.1
  simp only [exec_stack, opMeaning, jsrOp, htop, jumpTarget_eq ha]
  exact State.reserving_transfer (w := .short) hr (length_valueBytes ..).symm (Nat.add_le_add_right hroom 2) fun _ _ => rfl

/-- Settles O38: the transfer of the operand itself, with no jump. -/
theorem sthMovesTopToOtherStack : Obligations.SthMovesTopToOtherStack := by
  intro m a s pre ha hr hroom
  have htop := State.peek_one ha hr.1
  rw [← putBytes_ofNat] at hr ⊢
  simp only [exec_stack, opMeaning, sthOp, htop]
  refine State.reserving_transfer hr (length_putBytes ..).symm hroom fun u hu => ?_
  rw [State.setPc_self ((State.put_pc ..).trans hu)]

/-- Settles O39: the first check passes, and the second asks for two bytes (JSR) or the width (STH) on a stack without that room. -/
theorem secondCheckOfJsrAndSthOverflows : Obligations.SecondCheckOfJsrAndSthOverflows := by
  intro m s hc
  simp only [exec_stack, opMeaning, jsrOp, sthOp]
  exact ⟨fun hfull => State.reserving_other_full hc (Nat.add_lt_add_right hfull 2), State.reserving_other_full hc⟩

end Sys2Proof.Machine

/-! SUPPORT. Loads and stores (44_memory_ops.md R81-R86): the address short on top of the active stack, a load from any address, and the
two stores of a value that lies below its address. -/

namespace Sys2Proof.Machine

section
variable {m : Mode} {s : State} {pre before : List Byte} {c v : Nat} {a : Short}

/-- The address on top of a stack is the short its two bytes stand for (R31, R33). -/
theorem State.peek_address {x : StackSel} (h : (s.stack x).contents = pre ++ valueBytes .short a.toNat) : s.peek x 1 .short = a :=
  (State.peek_one a.isLt h).trans ((BitVec.ofNat_toNat 16 a).trans (BitVec.setWidth_eq a))

/-- A check, then the put of the bytes of memory at an address (R28). -/
theorem State.reserving_load (hr : EffectReady m.keep (s.stack (activeStack m)) pre before (s.bytesAt a m.width))
    (hc : c = before.length) :
    ∃ t, (s.reserving (activeStack m) c m.width.bytes m.keep fun s' =>
        (s'.put (activeStack m) 1 m.width (s.memRead a m.width)).complete) = .next t ∧
      ActiveEffect m s t pre before (s.bytesAt a m.width) s.pc := by
  subst hc
  rw [← putBytes_memRead] at hr ⊢
  refine State.reserving_active hr rfl (length_putBytes ..).symm ?_ (ActiveEffect.of_setStack (StackEffect.put_one hr))
  simp only [State.put_setStack, State.complete]

/-- A load with a short operand completes with the bytes at that address (R85). -/
theorem ldaOp_effect
    (hr : EffectReady m.keep (s.stack (activeStack m)) pre (valueBytes .short a.toNat) (s.bytesAt a m.width)) :
    ∃ t, ldaOp m s = .next t ∧ ActiveEffect m s t pre (valueBytes .short a.toNat) (s.bytesAt a m.width) s.pc := by
  have haddr := State.peek_address hr.1
  simp only [ldaOp, haddr]
  exact State.reserving_load hr (length_valueBytes .short a.toNat).symm

/-- A store with a byte operand stores the value below it at the address the operand gives (R82, R84). -/
theorem storeByteAddr_effect {addr : Byte → Short} {x : Byte} (hi : s.Inv) (hv : v < m.width.modulus)
    (hr : EffectReady m.keep (s.stack (activeStack m)) pre (valueBytes m.width v ++ [x]) []) :
    ∃ t, storeByteAddr addr m s = .next t ∧ StoreEffect m s t pre (valueBytes m.width v ++ [x]) (addr x) v := by
  have hoperand : s.peekByte (activeStack m) 1 = x :=
    State.peekByte_contents (l := pre ++ valueBytes m.width v) (r := []) (by rw [hr.1, List.append_assoc])
  have hvalue : s.peek (activeStack m) 2 m.width = BitVec.ofNat 16 v :=
    State.peek_contents (r := [x]) hv (by rw [hr.1, List.append_assoc])
  simp only [storeByteAddr, hoperand, hvalue]
  exact State.reserving_store hi hv hr (by simp) fun _ => rfl

/-- A store with a short operand stores the value below it at that address (R86). -/
theorem staOp_effect (hi : s.Inv) (hv : v < m.width.modulus)
    (hr : EffectReady m.keep (s.stack (activeStack m)) pre (valueBytes m.width v ++ valueBytes .short a.toNat) []) :
    ∃ t, staOp m s = .next t ∧ StoreEffect m s t pre (valueBytes m.width v ++ valueBytes .short a.toNat) a v := by
  have haddr : s.peek (activeStack m) 1 .short = a :=
    State.peek_address (pre := pre ++ valueBytes m.width v) (by rw [hr.1, List.append_assoc])
  have hvalue : s.peek (activeStack m) 3 m.width = BitVec.ofNat 16 v :=
    State.peek_contents (r := valueBytes .short a.toNat) hv (by rw [hr.1, List.append_assoc])
  simp only [staOp, haddr, hvalue]
  exact State.reserving_store hi hv hr (by simp [Width.bytes]) fun _ => rfl

end

end Sys2Proof.Machine

/-! SUPPORT. The statements of 44_memory_ops.md, settled from the laws above. -/

namespace Sys2Proof.Machine

/-- Settles O40: a load from the zero page address, whose second byte is at the next address of all memory. -/
theorem ldzPushesZeroPageBytes : Obligations.LdzPushesZeroPageBytes := by
  intro m a s pre hr
  rw [exec_stack]
  exact loadByteAddr_effect (zeroPageAddr_eq a) hr

/-- Settles O41: a load from the pc after decode plus the signed operand. -/
theorem ldrPushesRelativeBytes : Obligations.LdrPushesRelativeBytes := by
  intro m d s pre hr
  rw [exec_stack]
  exact loadByteAddr_effect (pc_add_sext8 s.pc d) hr

/-- Settles O42: a load from the operand itself. -/
theorem ldaPushesAbsoluteBytes : Obligations.LdaPushesAbsoluteBytes := by
  intro m a s pre hr
  rw [exec_stack]
  exact ldaOp_effect hr

/-- Settles O43: a store at the zero page address of the byte on top. -/
theorem stzStoresToZeroPage : Obligations.StzStoresToZeroPage := by
  intro m a v s pre hi hv hr
  obtain ⟨t, hexec, hstore⟩ := storeByteAddr_effect (addr := zeroPageAddr) hi hv hr
  exact ⟨t, (exec_stack ..).trans hexec, zeroPageAddr_eq a, hstore⟩

/-- Settles O44: a store at the pc after decode plus the signed byte on top. -/
theorem strStoresRelative : Obligations.StrStoresRelative := by
  intro m d v s pre hi hv hr
  obtain ⟨t, hexec, hstore⟩ := storeByteAddr_effect (addr := s.relativeAddr) hi hv hr
  exact ⟨t, (exec_stack ..).trans hexec, pc_add_sext8 s.pc d, hstore⟩

/-- Settles O45: a store at the short on top. -/
theorem staStoresAbsolute : Obligations.StaStoresAbsolute := by
  intro m a v s pre hi hv hr
  rw [exec_stack]
  exact staOp_effect hi hv hr

end Sys2Proof.Machine

/-! SUPPORT. The device bus as DEI and DEO use it (45_device_io.md R89-R96): which outcomes reach it, what an empty slot and a Console do,
and the two checks of DEO. -/

namespace Sys2Proof.Machine

/-! ### What an instruction can do to the devices -/

/-- What a slot holds is read from the device table alone. -/
theorem State.slot_congr {s t : State} (h : t.dev = s.dev) (d : BitVec 4) : t.slot d = s.slot d := by
  simp only [State.slot, h]

/-- From `s` to `t` the devices were called at most once: not at all, or with the one event `e` that `P` allows, by which only its slot
can have changed (R93, R94). -/
def AtMostOneCall (P : BusEvent → Prop) (s t : State) : Prop :=
  (t.dev = s.dev ∧ t.bus = s.bus) ∨ ∃ e, P e ∧ t.bus = s.bus ++ [e] ∧ OtherSlotsSame s t e.slot

/-- What leaves the devices and the record alone, before the call or after it, makes no difference. -/
theorem AtMostOneCall.congr {P : BusEvent → Prop} {s u u' t : State} (h : AtMostOneCall P u u') (hs : SameOutside s u)
    (hdev : t.dev = u'.dev) (hbus : t.bus = u'.bus) : AtMostOneCall P s t := by
  obtain ⟨-, hsdev, hsbus, -⟩ := hs
  rcases h with ⟨hdev', hbus'⟩ | ⟨e, he, hbus', hslots⟩
  · exact .inl ⟨hdev.trans (hdev'.trans hsdev), hbus.trans (hbus'.trans hsbus)⟩
  · refine .inr ⟨e, he, by rw [hbus, hbus', hsbus], fun d hd => ?_⟩
    calc t.slot d = u'.slot d := State.slot_congr hdev d
      _ = u.slot d := hslots d hd
      _ = s.slot d := State.slot_congr hsdev d

theorem State.devRead_atMostOneCall (s : State) (d p : BitVec 4) (w : Width) :
    AtMostOneCall (fun e => e.dir = .input ∧ e.width = w) s (s.devRead d p w).2 :=
  (State.devRead_bus s d p w).imp_right fun ⟨hbus, hslots⟩ => ⟨_, ⟨rfl, rfl⟩, hbus, hslots⟩

theorem State.devWrite_atMostOneCall (s : State) (d p : BitVec 4) (w : Width) (v : Short) :
    AtMostOneCall (fun e => e.dir = .output ∧ e.width = w) s (s.devWrite d p w v) :=
  (State.devWrite_bus s d p w v).imp_right fun ⟨hbus, hslots⟩ => ⟨_, ⟨rfl, rfl⟩, hbus, hslots⟩

/-- All that an instruction can do to the devices and the record: nothing, or one call of a DEI or a DEO (R93). -/
theorem Outcome.device_cases {i : Instr} {s t : State} (h : Outcome i s t) :
    (t.dev = s.dev ∧ t.bus = s.bus) ∨
    (∃ m, i = .stack .dei m ∧ AtMostOneCall (fun e => e.dir = .input ∧ e.width = m.width) s t) ∨
    (∃ m, i = .stack .deo m ∧ AtMostOneCall (fun e => e.dir = .output ∧ e.width = m.width) s t) := by
  cases h with
  | halted | faulted => exact .inl ⟨rfl, rfl⟩
  | faultedAtSecondCheck => exact .inl ⟨State.setStack_dev .., State.setStack_bus ..⟩
  | completed _ _ hout _ =>
    obtain ⟨-, hdev, hbus, -⟩ := hout
    exact .inl ⟨hdev, hbus⟩
  | stored _ _ _ _ _ _ hout _ =>
    obtain ⟨-, hdev, hbus, -⟩ := hout
    exact .inl ⟨(State.memWrite_dev ..).trans hdev, (State.memWrite_bus ..).trans hbus⟩
  | @input u m d p hi hout _ _ =>
    exact .inr (.inl ⟨m, hi, (u.devRead_atMostOneCall d p m.width).congr hout (State.put_dev ..) (State.put_bus ..)⟩)
  | @output u m d p v hi hout _ =>
    exact .inr (.inr ⟨m, hi, (u.devWrite_atMostOneCall d p m.width v).congr hout rfl rfl⟩)

/-! ### An empty slot -/

/-- An empty slot answers 0 (R89). -/
theorem State.devRead_none {s : State} {d : BitVec 4} (h : s.slot d = none) (p : BitVec 4) (w : Width) :
    s.devRead d p w = (0, s) := by
  simp only [State.devRead, h]

/-- An empty slot discards what is written to it (R90). -/
theorem State.devWrite_none {s : State} {d : BitVec 4} (h : s.slot d = none) (p : BitVec 4) (w : Width) (v : Short) :
    s.devWrite d p w v = s := by
  simp only [State.devWrite, h]

/-! ### A Console -/

/-- A read of a Console: its port bytes, recorded (R91, R118). -/
theorem State.devRead_console {s : State} {d : BitVec 4} {r : Vector Byte 16} (h : s.slot d = some (.console r)) (p : BitVec 4)
    (w : Width) : s.devRead d p w =
      (portValue (fun q => r[q.toNat]'q.isLt) p w,
        s.record ⟨.input, d, p, w, portValue (fun q => r[q.toNat]'q.isLt) p w⟩) := by
  have hports : s.readPorts d p w = portValue (fun q => r[q.toNat]'q.isLt) p w := by
    cases w <;> simp only [State.readPorts, portValue, State.readPort_console s h]
  simp only [State.devRead, h, hports]

/-- A write of a Console: its port writes, recorded (R91, R118). -/
theorem State.devWrite_console {s : State} {d : BitVec 4} {r : Vector Byte 16} (h : s.slot d = some (.console r)) (p : BitVec 4)
    (w : Width) (v : Short) : s.devWrite d p w v = (s.writePorts d p w v).record ⟨.output, d, p, w, v⟩ := by
  simp only [State.devWrite, h]

theorem length_portBytes (f : BitVec 4 → Byte) (p : BitVec 4) (w : Width) : (portBytes f p w).length = w.bytes := by
  cases w <;> rfl

/-! ### The checks of DEO -/

section
variable {m : Mode} {s : State}

/-- A check that only consumes, as the move of the pointer it is. -/
theorem State.afterCheck_popped {c : Nat} (h : c ≤ (s.stack (activeStack m)).sp.toNat) :
    s.afterCheck m c 0 = s.withSp (activeStack m) (poppedSp m s c (activeStack m)) := by
  rw [State.afterCheck, State.withSp, Stack.setSp_popped h]

/-- The pointer of the active stack after a check that only consumes, without keep. -/
theorem State.afterCheck_popped_toNat {c : Nat} (hk : m.keep = false) :
    ((s.afterCheck m c 0).stack (activeStack m)).sp.toNat = (s.stack (activeStack m)).sp.toNat - c := by
  rw [State.afterCheck, State.stack_setStack, Stack.setSp_toNat (newPointer_pop_le ..), newPointer, hk]
  rfl

/-- Too little below the port byte: Underflow after the first check, with keep by the comparison and without keep by the second check
(R96, decision D7). -/
theorem deoOp_underflow_below_port (hport : 1 ≤ (s.stack (activeStack m)).sp.toNat)
    (hfew : (s.stack (activeStack m)).sp.toNat < 1 + m.width.bytes) : deoOp m s = (s.afterCheck m 1 0).raise .underflow := by
  unfold deoOp
  rw [State.reserving_pop hport]
  cases hk : m.keep with
  | true => exact (if_pos rfl).trans (if_pos hfew)
  | false =>
    refine (if_neg Bool.false_ne_true).trans (State.reserving_underflow ?_)
    rw [State.afterCheck_popped_toNat hk]
    omega

/-- What DEO leaves on the stacks if the device it writes moves no pointer (R96). -/
theorem deo_stacks_of_stack_eq {t : State} {pre : List Byte} {p8 : Byte} {v : Nat} (hv : v < m.width.modulus)
    (hr : EffectReady m.keep (s.stack (activeStack m)) pre (valueBytes m.width v ++ [p8]) [])
    (ht : ∀ x, t.stack x = (s.afterCheck m (m.width.bytes + 1) 0).stack x) :
    StackEffect m.keep (s.stack (activeStack m)) (t.stack (activeStack m)) pre (valueBytes m.width v ++ [p8]) [] ∧
    t.stack (otherStack m) = s.stack (otherStack m) := by
  obtain ⟨-, heffect⟩ := deoOp_checked hv hr
  rw [ht, ht, State.afterCheck_other]
  exact ⟨heffect, rfl⟩

end

end Sys2Proof.Machine

/-! SUPPORT. The statements of 45_device_io.md, settled from the laws above. -/

namespace Sys2Proof.Machine

/-- Settles O15: only the outcomes of DEI and DEO call a device, each once. -/
theorem onlyDeviceInstructionsReachDevices : Obligations.OnlyDeviceInstructionsReachDevices := by
  intro i s t h
  rcases (exec_outcome_of_eq h).device_cases with hsame | ⟨m, hi, hcall⟩ | ⟨m, hi, hcall⟩
  · exact .inl hsame
  · exact hcall.imp_right fun ⟨e, ⟨hdir, hwidth⟩, hevent⟩ => ⟨m, e, .inl ⟨hi, hdir⟩, hwidth, hevent⟩
  · exact hcall.imp_right fun ⟨e, ⟨hdir, hwidth⟩, hevent⟩ => ⟨m, e, .inr ⟨hi, hdir⟩, hwidth, hevent⟩

/-- Settles O46: after the checks the bus answers 0 or discards the value, so that the stack alone is replaced. -/
theorem emptySlotReadsZeroAndDiscards : Obligations.EmptySlotReadsZeroAndDiscards := by
  intro m p8 s pre hslot
  have hempty (c p : Nat) : (s.afterCheck m c p).slot (slotOf p8) = none := (State.afterCheck_slot ..).trans hslot
  constructor
  · intro hr
    obtain ⟨hexec, heffect⟩ := deiOp_checked hr
    have hread := State.devRead_none (hempty 1 m.width.bytes) (portOf p8) m.width
    replace heffect := heffect _ rfl
    rw [State.afterCheck] at hread
    rw [hread, State.put_setStack] at hexec heffect
    rw [State.stack_setStack] at heffect
    exact ⟨_, hexec, ActiveEffect.of_setStack heffect⟩
  · intro v hv hr
    obtain ⟨hexec, heffect⟩ := deoOp_checked hv hr
    have hwrite := State.devWrite_none (hempty (m.width.bytes + 1) 0) (portOf p8) m.width (BitVec.ofNat 16 v)
    rw [State.afterCheck] at hwrite
    rw [hwrite] at hexec
    rw [State.stack_setStack] at heffect
    exact ⟨_, hexec, ActiveEffect.of_setStack heffect⟩

/-- Settles O47: the Console answers its port bytes and stays as it is. -/
theorem deiReadsConsolePorts : Obligations.DeiReadsConsolePorts := by
  intro m p8 s pre r hslot hr
  have hready := hr.of_length (after' := valueBytes m.width 0) (by rw [length_valueBytes, length_portBytes])
  obtain ⟨t, hexec, hdev, -, heffect⟩ := dei_reached (by simp [hslot]) hready
  rw [State.devRead_console ((State.afterCheck_slot ..).trans hslot)] at hdev heffect
  rw [putBytes_portValue] at heffect
  exact ⟨t, hexec, hdev.trans (State.afterCheck_dev ..), heffect⟩

/-- Settles O49: the device's function is called in the state after the checks, whose pointers are those of the next state. -/
theorem hostDeviceIsCalledOnce : Obligations.HostDeviceIsCalledOnce := by
  intro m p8 s pre id st hslot
  have hfilled : s.slot (slotOf p8) ≠ none := by simp [hslot]
  have hhost (c p : Nat) : (s.afterCheck m c p).slot (slotOf p8) = some (.host id st) := (State.afterCheck_slot ..).trans hslot
  constructor
  · intro hr
    obtain ⟨t, hexec, hdev, hpointers, heffect⟩ := dei_reached hfilled hr
    rw [State.devRead_host (hhost ..), ← hpointers] at hdev heffect
    refine ⟨t, hexec, ?_, heffect⟩
    rw [State.slot_congr hdev, State.slot_record, State.slot_setSlot_same]
  · intro v hv hr
    obtain ⟨hexec, hframe⟩ := deo_reached hfilled hv hr
    rw [State.devWrite_host (hhost ..)] at hexec hframe
    obtain ⟨hactive, hother⟩ := deo_stacks_of_stack_eq hv hr fun x => by
      rw [State.setStatus_stack, State.record_stack, State.setSlot_stack]
    refine ⟨_, hexec, ?_, hactive, hother, hframe⟩
    simp

/-- Settles O50: the ports are written in the state with both operands popped, and no pointer moves. -/
theorem deoWritesConsolePorts : Obligations.DeoWritesConsolePorts := by
  intro m p8 v s pre r hslot hv hr
  have hconsole : (s.afterCheck m (m.width.bytes + 1) 0).slot (slotOf p8) = some (.console r) :=
    (State.afterCheck_slot ..).trans hslot
  obtain ⟨hexec, hframe⟩ := deo_reached (by simp [hslot]) hv hr
  obtain ⟨r', hwrite, hports⟩ := State.writePorts_console hconsole (portOf p8) m.width v
  rw [State.devWrite_console hconsole, hwrite] at hexec hframe
  obtain ⟨hactive, hother⟩ := deo_stacks_of_stack_eq hv hr fun x => by
    rw [State.setStatus_stack, State.record_stack, State.setSlot_stack]
  exact ⟨_, r', hexec, State.slot_setSlot_same .., hports, hactive, hother, hframe⟩

/-- Settles O52: the first check asks for the port byte, and too little below it raises with that check's pointer. -/
theorem deoChecksTwice : Obligations.DeoChecksTwice := by
  intro m s
  simp only [exec_stack, opMeaning]
  constructor
  · intro hsp
    unfold deoOp
    rw [State.reserving_underflow (by simp [hsp])]
    rfl
  · intro hport hfew
    rw [deoOp_underflow_below_port hport hfew, State.raise, State.stopAt, ← State.afterCheck_popped hport,
      State.setPc_self (State.afterCheck_pc ..)]

end Sys2Proof.Machine

/-! SUPPORT. Arithmetic (46_arith.md R97-R100): the 16-bit result of two operands of a width, cut to that width, what every form of a
binary operation completes with, and the order of DIV's tests. -/

namespace Sys2Proof.Machine

/-! ### Results in 16 bits -/

/-- The sum in 16 bits lies on a stack as the sum mod 2^(8w) does (R97). -/
theorem putBytes_add (w : Width) (a b : Nat) :
    putBytes w (BitVec.ofNat 16 a + BitVec.ofNat 16 b) = valueBytes w ((a + b) % w.modulus) := by
  rw [← BitVec.ofNat_add, putBytes_ofNat, valueBytes_mod]

/-- The product in 16 bits lies on a stack as the product mod 2^(8w) does (R99). -/
theorem putBytes_mul (w : Width) (a b : Nat) :
    putBytes w (BitVec.ofNat 16 a * BitVec.ofNat 16 b) = valueBytes w ((a * b) % w.modulus) := by
  rw [← BitVec.ofNat_mul, putBytes_ofNat, valueBytes_mod]

section
variable {w : Width} {a b : Nat} (ha : a < w.modulus) (hb : b < w.modulus)
include ha hb

/-- The difference in 16 bits lies on a stack as the difference mod 2^(8w) does, since 2^(8w) divides 65536 (R98). -/
theorem putBytes_sub : putBytes w (BitVec.ofNat 16 a - BitVec.ofNat 16 b) =
    valueBytes w (((a : Int) - b) % (w.modulus : Int)).toNat := by
  have hdiff : (((a : Int) - b) % (w.modulus : Int)).toNat = (2 ^ 16 - b + a) % w.modulus := by
    cases w <;> simp only [Width.modulus_byte, Width.modulus_short] at hb ⊢ <;> omega
  rw [putBytes, BitVec.toNat_sub, toNat_ofNat_of_lt_modulus ha, toNat_ofNat_of_lt_modulus hb, hdiff, valueBytes_mod]
  exact valueBytes_mod_65536 ..

/-- The unsigned quotient in 16 bits is the quotient of the operands' values (R100). -/
theorem putBytes_div : putBytes w (BitVec.ofNat 16 a / BitVec.ofNat 16 b) = valueBytes w (a / b) := by
  rw [putBytes, BitVec.toNat_udiv, toNat_ofNat_of_lt_modulus ha, toNat_ofNat_of_lt_modulus hb]

end

/-- A divisor is 0 in 16 bits only where its value is 0. -/
theorem ofNat_ne_zero {w : Width} {b : Nat} (hb : b < w.modulus) (h0 : b ≠ 0) : (BitVec.ofNat 16 b : Short) ≠ 0 := fun h =>
  h0 ((toNat_ofNat_of_lt_modulus hb).symm.trans (congrArg BitVec.toNat h))

/-! ### Binary operations -/

/-- An operation whose meaning is the binary operation by `f` pushes the value that `f` gives on its operands. -/
theorem formEffect_of_binaryOp {op : Op} {f : Short → Short → Short} {m : Mode} {a b v : Nat}
    (hop : opMeaning op m = binaryOp f m)
    (hf : putBytes m.width (f (BitVec.ofNat 16 a) (BitVec.ofNat 16 b)) = valueBytes m.width v)
    (ha : a < m.width.modulus) (hb : b < m.width.modulus) :
    FormEffect op m (valueBytes m.width a ++ valueBytes m.width b) (valueBytes m.width v) := by
  intro s pre hr
  rw [exec_stack, hop]
  exact binaryOp_effect hf ha hb s pre hr

/-- With keep the new pointer is the old one and what is produced. -/
theorem newPointer_keep {k : Bool} (hk : k = true) (sp c p : Nat) : newPointer sp c p k = sp + p := if_pos hk

section
variable {f : Short → Short → Short} {m : Mode} {s : State}

/-- Fewer bytes than two operands (R32). -/
theorem binaryOp_underflow (h : (s.stack (activeStack m)).sp.toNat < 2 * m.width.bytes) :
    binaryOp f m s = s.raise .underflow := by
  obtain ⟨g, hg⟩ := binaryOp_reserving m s f
  rw [hg, State.reserving_underflow h]

/-- Two operands that stay, and no room for the result above them (R32). -/
theorem binaryOp_overflow (hk : m.keep = true) (hc : 2 * m.width.bytes ≤ (s.stack (activeStack m)).sp.toNat)
    (hroom : (s.stack (activeStack m)).sp.toNat + m.width.bytes > 255) : binaryOp f m s = s.raise .overflow := by
  obtain ⟨g, hg⟩ := binaryOp_reserving m s f
  rw [hg, State.reserving_overflow hc (by rwa [newPointer_keep hk])]

end

/-! ### ADD, SUB and DIV -/

/-- ADD is base operation 0x18 (R97). -/
theorem encode_add (m : Mode) : encode (.stack .add m) = [formByte 0x18 m] := by
  obtain ⟨k, r, w⟩ := m
  cases k <;> cases r <;> cases w <;> rfl

/-- SUB is a difference, but for the byte forms where SUB8_ADDS is set (R98, decision D3). -/
theorem subOp_eq (m : Mode) (s : State) : subOp m s =
    if m.width = .byte ∧ s.sub8Adds = true then binaryOp (fun a b => a + b) m s else binaryOp (fun a b => a - b) m s := by
  unfold subOp
  split
  · next hw h8 => rw [if_pos ⟨hw, h8⟩]
  · next h => rw [if_neg fun ⟨hw, h8⟩ => h hw h8]

section
variable {m : Mode} {s : State} {pre : List Byte} {b : Nat}

/-- DIV first asks for a whole divisor (R100, decision D9). -/
theorem divOp_underflow (h : (s.stack (activeStack m)).sp.toNat < m.width.bytes) : divOp m s = s.raise .underflow :=
  if_pos h

/-- A stack with a value on top holds at least that value's bytes. -/
theorem Stack.sp_of_contents_append {st : Stack} {w : Width} (h : st.contents = pre ++ valueBytes w b) :
    st.sp.toNat = pre.length + w.bytes := by
  rw [← st.length_contents, h, List.length_append, length_valueBytes]

/-- With a divisor on the stack DIV is decided by that divisor: ZeroDiv, or the binary operation with its own check (R100, R109). -/
theorem divOp_of_divisor (hb : b < m.width.modulus) (h : (s.stack (activeStack m)).contents = pre ++ valueBytes m.width b) :
    divOp m s = if b = 0 then s.raise .zeroDiv else binaryOp (fun a b => a / b) m s := by
  have hsp := Stack.sp_of_contents_append h
  simp only [divOp, State.peek_one hb h]
  rw [if_neg (by omega)]
  by_cases h0 : b = 0
  · subst h0
    rfl
  · rw [if_neg (ofNat_ne_zero hb h0), if_neg h0]

end

end Sys2Proof.Machine

/-! SUPPORT. The statements of 46_arith.md, settled from the laws above. -/

namespace Sys2Proof.Machine

/-- Settles O54: the sum in 16 bits is cut to the width, and the faults are those of the one check. -/
theorem addPushesSum : Obligations.AddPushesSum := by
  refine ⟨encode_add, fun m a b => formEffect_of_binaryOp rfl (putBytes_add m.width a b), ?_, ?_⟩
  · intro m s hfew
    exact (exec_stack ..).trans (binaryOp_underflow hfew)
  · intro m s hk henough hroom
    exact (exec_stack ..).trans (binaryOp_overflow hk henough hroom)

/-- Settles O55: the two meanings of SUB, the byte form's sum and the difference of either width. -/
theorem subPushesDifference : Obligations.SubPushesDifference := by
  intro m a b s pre after ha hb hafter hr
  subst hafter
  simp only [exec_stack, opMeaning, subOp_eq]
  by_cases h : m.width = .byte ∧ s.sub8Adds = true
  · have hmod : m.width.modulus = 256 := congrArg Width.modulus h.1
    simp only [if_pos h, ← hmod] at hr ⊢
    exact binaryOp_effect (putBytes_add m.width a b) ha hb s pre hr
  · simp only [if_neg h] at hr ⊢
    exact binaryOp_effect (putBytes_sub ha hb) ha hb s pre hr

/-- Settles O56: the product in 16 bits is cut to the width. -/
theorem mulPushesProduct : Obligations.MulPushesProduct :=
  fun m a b => formEffect_of_binaryOp rfl (putBytes_mul m.width a b)

/-- Settles O57: a divisor that is not 0 passes both tests that come before the operation. -/
theorem divPushesQuotient : Obligations.DivPushesQuotient := by
  intro m a b ha hb h0 s pre hr
  have hdivisor : (s.stack (activeStack m)).contents = (pre ++ valueBytes m.width a) ++ valueBytes m.width b := by
    rw [hr.1, List.append_assoc]
  simp only [exec_stack, opMeaning]
  rw [divOp_of_divisor hb hdivisor, if_neg h0]
  exact binaryOp_effect (putBytes_div ha hb) ha hb s pre hr

/-- Settles O58: the divisor decides before the check of the binary operation, whose two faults come last. -/
theorem divFaultsInOrder : Obligations.DivFaultsInOrder := by
  intro m s
  simp only [exec_stack, opMeaning]
  refine ⟨divOp_underflow, fun pre hzero => ?_, fun pre b hb h0 hdivisor => ?_⟩
  · exact (divOp_of_divisor m.width.modulus_pos hzero).trans (if_pos rfl)
  · have hsp := Stack.sp_of_contents_append hdivisor
    rw [divOp_of_divisor hb hdivisor, if_neg h0]
    exact ⟨fun hfew => binaryOp_underflow (by omega), fun henough hk => binaryOp_overflow hk (by omega)⟩

end Sys2Proof.Machine

/-! SUPPORT. Bitwise operations (47_bitwise.md R101-R104): their results in 16 bits as values, and the two operands of SFT. -/

namespace Sys2Proof.Machine

/-! ### Bits of an operand -/

/-- The conjunction in 16 bits lies on a stack as the conjunction of the values does (R101). -/
theorem putBytes_and (w : Width) (a b : Nat) :
    putBytes w (BitVec.ofNat 16 a &&& BitVec.ofNat 16 b) = valueBytes w (a &&& b) := by
  rw [← BitVec.ofNat_and, putBytes_ofNat]

/-- The inclusive disjunction in 16 bits lies on a stack as that of the values does (R102). -/
theorem putBytes_or (w : Width) (a b : Nat) :
    putBytes w (BitVec.ofNat 16 a ||| BitVec.ofNat 16 b) = valueBytes w (a ||| b) := by
  rw [← BitVec.ofNat_or, putBytes_ofNat]

/-- The exclusive disjunction in 16 bits lies on a stack as that of the values does (R103). -/
theorem putBytes_xor (w : Width) (a b : Nat) :
    putBytes w (BitVec.ofNat 16 a ^^^ BitVec.ofNat 16 b) = valueBytes w (a ^^^ b) := by
  rw [← BitVec.ofNat_xor, putBytes_ofNat]

/-! ### SFT -/

/-- The count of the right shift is the low nibble of the control byte (R104). -/
theorem toNat_lowNibble (c : Byte) : (c.extractLsb' 0 4).toNat = c.toNat % 16 :=
  BitVec.extractLsb'_toNat ..

/-- The count of the left shift is the high nibble of the control byte (R104). -/
theorem toNat_highNibble (c : Byte) : (c.extractLsb' 4 4).toNat = c.toNat / 16 := by
  have hc := c.isLt
  rw [BitVec.extractLsb'_toNat, Nat.shiftRight_eq_div_pow]
  omega

/-- The two shifts in 16 bits are the two shifts of the operand's value, cut to 16 bits (R104). -/
theorem shiftBy_ofNat {w : Width} {a : Nat} (ha : a < w.modulus) (c : Byte) :
    shiftBy (BitVec.ofNat 16 a) c = BitVec.ofNat 16 ((a >>> (c.toNat % 16)) <<< (c.toNat / 16)) := by
  apply BitVec.eq_of_toNat_eq
  rw [shiftBy, toNat_lowNibble, toNat_highNibble, BitVec.toNat_shiftLeft, BitVec.toNat_ushiftRight,
    toNat_ofNat_of_lt_modulus ha, BitVec.toNat_ofNat]

/-- The control byte lies on top, and right below it the value that is shifted (R104). -/
theorem State.peek_below_byte {s : State} {x : StackSel} {w : Width} {pre : List Byte} {a : Nat} {c : Byte}
    (ha : a < w.modulus) (h : (s.stack x).contents = pre ++ (valueBytes w a ++ [c])) :
    s.peek x 2 w = BitVec.ofNat 16 a ∧ s.peekByte x 1 = c := by
  rw [← List.append_assoc] at h
  exact ⟨State.peek_contents (r := [c]) ha h, State.peekByte_contents (r := []) h⟩

/-- A value and a byte take the width and one. -/
theorem length_value_byte (w : Width) (a : Nat) (c : Byte) : w.bytes + 1 = (valueBytes w a ++ [c]).length := by
  rw [List.length_append, length_valueBytes, List.length_singleton]

end Sys2Proof.Machine

/-! SUPPORT. The statements of 47_bitwise.md, settled from the laws above. -/

namespace Sys2Proof.Machine

/-- Settles O59: on the shorts that carry the operands, each operation gives the short that carries its result. -/
theorem andOrXorCombineBits : Obligations.AndOrXorCombineBits := fun m a b ha hb =>
  ⟨formEffect_of_binaryOp rfl (putBytes_and m.width a b) ha hb, formEffect_of_binaryOp rfl (putBytes_or m.width a b) ha hb,
    formEffect_of_binaryOp rfl (putBytes_xor m.width a b) ha hb⟩

/-- Settles O60: the two shifts of the operand in 16 bits lie on the stack as those of its value mod 2^(8w) do. -/
theorem sftShiftsRightThenLeft : Obligations.SftShiftsRightThenLeft := by
  intro m a c ha s pre hr
  obtain ⟨hvalue, hcontrol⟩ := State.peek_below_byte ha hr.1
  rw [valueBytes_mod] at hr ⊢
  simp only [exec_stack, opMeaning, sftOp, hvalue, hcontrol, shiftBy_ofNat ha]
  exact State.reserving_put_one hr (length_value_byte ..)

end Sys2Proof.Machine

/-! SUPPORT. The decoder and the encoder (30_encoding.md R44-R53): the byte of a form, the inline operand of an immediate opcode, and that
the two functions invert each other. -/

namespace Sys2Proof.Machine

/-! ### The byte of a form -/

/-- The encoding of a form is one byte, which names the operation and the flags (R48). -/
theorem encode_stack (op : Op) (m : Mode) : ∃ b, encode (.stack op m) = [b] ∧ opOf b = some op ∧ modeOf b = m := by
  obtain ⟨b, hb⟩ := List.length_eq_one_iff.mp (length_encode_stack op m)
  have hform := formOf_stack op m
  rw [formOf, hb, Option.map_eq_some_iff] at hform
  obtain ⟨op', hop, hpair⟩ := hform
  obtain ⟨rfl, hmode⟩ := Prod.mk.inj hpair
  exact ⟨b, hb, hop, hmode⟩

/-- The number of an operation (R48): the byte of its form without flags. -/
def opNumber (op : Op) : Nat := ((encode (.stack op ⟨false, false, .byte⟩)).headD 0).toNat

/-- A byte names an operation by its low five bits (R48). -/
theorem lowBits_of_opOf {b : Byte} {op : Op} (h : opOf b = some op) : b.toNat % 32 = opNumber op := by
  have hbits : (b.extractLsb' 0 5).toNat = b.toNat % 32 := BitVec.extractLsb'_toNat ..
  rw [← hbits]
  unfold opOf at h
  split at h <;> cases h
  all_goals assumption

/-- Bits 7, 6 and 5 are the flags (R44). -/
theorem highBits_eq_of_modeOf_eq {b c : Byte} (h : modeOf b = modeOf c) : b.toNat / 32 = c.toNat / 32 := by
  obtain ⟨hkeep, hret, hwidth⟩ := Mode.mk.inj h
  have hshort : b.getLsbD 5 = c.getLsbD 5 := by
    revert hwidth
    cases b.getLsbD 5 <;> cases c.getLsbD 5 <;> decide
  simp only [BitVec.getLsbD, Nat.testBit_eq_decide_div_mod_eq, decide_eq_decide] at hkeep hret hshort
  have hb := b.isLt
  have hc := c.isLt
  omega

/-- The byte that names an operation is the encoding of its form under the byte's flags. -/
theorem encode_stack_modeOf {b : Byte} {op : Op} (h : opOf b = some op) : encode (.stack op (modeOf b)) = [b] := by
  obtain ⟨c, hc, hop, hmode⟩ := encode_stack op (modeOf b)
  have hlow := (lowBits_of_opOf hop).trans (lowBits_of_opOf h).symm
  have hhigh := highBits_eq_of_modeOf_eq hmode
  have heq : c = b := BitVec.eq_of_toNat_eq (by omega)
  rw [hc, heq]

/-- A byte that names an operation is a whole instruction (R52). -/
theorem wordLength_of_opOf {b : Byte} {op : Op} (h : opOf b = some op) : wordLength b = 1 := by
  unfold wordLength
  split_ifs with h3 h2
  · rcases h3 with rfl | rfl | rfl | rfl | rfl <;> cases h
  · rcases h2 with rfl | rfl <;> cases h
  · rfl

/-! ### Decoding what was encoded -/

/-- A short operand, written high byte first, is put together again (R51). -/
theorem decodeInlineShort_bytes (b : Byte) (mk : Short → Instr) (v : Short) (rest : List Byte) :
    decodeInlineShort b mk (hiByte v :: loByte v :: rest) = .ok (mk v, rest) := by
  rw [decodeInlineShort, shortOf_hiByte_loByte]

/-- The decoder reads an encoded instruction back, whatever follows it. -/
theorem decode_encode (i : Instr) (rest : List Byte) : decode (encode i ++ rest) = .ok (i, rest) := by
  rcases instr_cases_form i with rfl | ⟨d, rfl⟩ | ⟨d, rfl⟩ | ⟨d, rfl⟩ | ⟨v, rfl⟩ | ⟨v, rfl⟩ | ⟨v, rfl⟩ | ⟨v, rfl⟩ | ⟨op, m, rfl⟩
  · rfl
  · exact decodeInlineShort_bytes 0x20 .jci d rest
  · exact decodeInlineShort_bytes 0x40 .jmi d rest
  · exact decodeInlineShort_bytes 0x60 .jsi d rest
  · rfl
  · exact decodeInlineShort_bytes 0xA0 .lit2 v rest
  · rfl
  · exact decodeInlineShort_bytes 0xE0 .lit2r v rest
  · obtain ⟨b, hb, hop, rfl⟩ := encode_stack op m
    rw [hb]
    exact decode_of_opOf hop rest

/-! ### Encoding what was decoded -/

section
variable {b : Byte} {n : Nat} {bytes rest : List Byte} {i : Instr}

/-- A byte operand is given back (R51). -/
theorem encode_of_decodeInlineByte {mk : Byte → Instr} (hb : b.toNat = n) (hmk : ∀ v, encode (mk v) = [BitVec.ofNat 8 n, v])
    (h : decodeInlineByte b mk bytes = .ok (i, rest)) : encode i ++ rest = b :: bytes := by
  subst hb
  match bytes, h with
  | v :: _, rfl => rw [hmk, BitVec.ofNat_toNat, BitVec.setWidth_eq]; rfl

/-- A short operand is given back (R51). -/
theorem encode_of_decodeInlineShort {mk : Short → Instr} (hb : b.toNat = n)
    (hmk : ∀ v, encode (mk v) = [BitVec.ofNat 8 n, hiByte v, loByte v])
    (h : decodeInlineShort b mk bytes = .ok (i, rest)) : encode i ++ rest = b :: bytes := by
  subst hb
  match bytes, h with
  | hi :: lo :: _, rfl => rw [hmk, BitVec.ofNat_toNat, BitVec.setWidth_eq, hiByte_shortOf, loByte_shortOf]; rfl

/-- Each of the eight immediate opcodes gives its bytes back (R45, R51). -/
theorem encode_of_decodeImmediate (h : decodeImmediate b bytes = .ok (i, rest)) : encode i ++ rest = b :: bytes := by
  unfold decodeImmediate at h
  split at h
  case h_1 hb =>
    obtain rfl : b = 0x00 := BitVec.eq_of_toNat_eq hb
    cases h
    rfl
  case h_2 hb | h_3 hb | h_4 hb | h_6 hb | h_8 hb => exact encode_of_decodeInlineShort hb (fun _ => rfl) h
  case h_5 hb | h_7 hb => exact encode_of_decodeInlineByte hb (fun _ => rfl) h
  case h_9 => cases h

/-- The encoder gives back what the decoder read. -/
theorem encode_of_decode (h : decode bytes = .ok (i, rest)) : encode i ++ rest = bytes := by
  cases bytes with
  | nil => cases h
  | cons b bytes =>
    cases hop : opOf b with
    | some op =>
      cases (decode_of_opOf hop bytes).symm.trans h
      rw [encode_stack_modeOf hop]
      rfl
    | none =>
      simp only [decode, hop] at h
      exact encode_of_decodeImmediate h

/-- An encoding is one whole instruction (R52). -/
theorem wordsWf_encode (i : Instr) : wordsWf (encode i) = true := by
  rcases instr_cases_form i with rfl | ⟨d, rfl⟩ | ⟨d, rfl⟩ | ⟨d, rfl⟩ | ⟨v, rfl⟩ | ⟨v, rfl⟩ | ⟨v, rfl⟩ | ⟨v, rfl⟩ | ⟨op, m, rfl⟩
  on_goal 9 =>
    obtain ⟨b, hb, hop, -⟩ := encode_stack op m
    rw [hb, wordsWf, wordLength_of_opOf hop]
    rfl
  all_goals rfl

/-- The decoder leaves what follows the length of the first byte (R52). -/
theorem rest_of_decode (h : decode (b :: bytes) = .ok (i, rest)) : rest = (b :: bytes).drop (wordLength b) := by
  have happend := encode_of_decode h
  have hwf := wordsWf_encode i
  cases henc : encode i with
  | nil => rw [henc] at hwf; cases hwf
  | cons c operand =>
    rw [henc] at happend hwf
    obtain rfl : c = b := (List.cons.inj happend).1
    rw [← happend, ← beq_iff_eq.mp hwf]
    exact (List.drop_left' (l₁ := c :: operand) rfl).symm

/-- BRK is decoded from the byte 0x00 alone (R45). -/
theorem decode_brk_iff (h : decode (b :: bytes) = .ok (i, rest)) : i = .brk ↔ b = 0x00 := by
  constructor
  · rintro rfl
    exact (List.cons.inj (encode_of_decode h)).1.symm
  · rintro rfl
    cases h
    rfl

end

end Sys2Proof.Machine

/-! SUPPORT. The statements of 30_encoding.md on the decoder and the encoder, settled from the laws above. -/

namespace Sys2Proof.Machine

/-- Settles O1: an immediate opcode is read off the decoder's table with its operand put together again, and the byte of a form
names it. -/
theorem decodeAfterEncodeIsIdentity : Obligations.DecodeAfterEncodeIsIdentity := decode_encode

/-- Settles O2: the byte read is the only one that names its form or its immediate opcode. -/
theorem encodeAfterDecodeIsIdentity : Obligations.EncodeAfterDecodeIsIdentity :=
  fun _ i _ h => ⟨encode_of_decode h, wordsWf_encode i⟩

/-- Settles O4: three bytes are enough for any instruction, and what is left follows the length of the first byte. -/
theorem everyByteDecodes : Obligations.EveryByteDecodes := by
  intro b0 b1 b2 rest
  obtain ⟨i, rest', h⟩ := decode_answers b0 b1 b2 rest
  exact ⟨i, by rw [h, rest_of_decode h]⟩

end Sys2Proof.Machine

/-! SUPPORT. How a step ends (60_exceptions.md R105-R108): which outcomes halt and what the two kinds of fault leave; and the System
device's metadata port, which is storage (R115, R117). -/

namespace Sys2Proof.Machine

/-- Of all outcomes only that of BRK is a halt (R107). -/
theorem Outcome.halted_iff {i : Instr} {s t : State} (h : Outcome i s t) : t.status = .halted ↔ i = .brk := by
  cases h with
  | halted hi => exact iff_of_true rfl hi
  | faulted kind hi => exact iff_of_false nofun hi
  | faultedAtSecondCheck op m kind n hi => exact iff_of_false nofun (hi ▸ stack_ne_brk op m)
  | completed hi hstatus => exact iff_of_false (by rw [hstatus]; nofun) hi
  | stored op m _ _ _ hi => exact iff_of_false nofun (hi ▸ stack_ne_brk op m)
  | input m _ _ hi => exact iff_of_false nofun (hi ▸ stack_ne_brk .dei m)
  | output m _ _ _ hi => exact iff_of_false nofun (hi ▸ stack_ne_brk .deo m)

/-- Without keep, a check that takes `n` bytes is a move of the pointer by `n` (R32). -/
theorem State.afterCheck_no_keep (s : State) {m : Mode} (hk : m.keep = false) (n : Nat) :
    s.afterCheck m n 0 =
      s.setStack (activeStack m) ((s.stack (activeStack m)).setSp ((s.stack (activeStack m)).sp.toNat - n)) := by
  rw [State.afterCheck, newPointer, hk]
  rfl

/-- All that a fault can be: the state as it was but for the pc and the status, or the state in which the first check of a JSR, STH or
DEO without keep has taken its `n` bytes (R106, R79, R80, R96). -/
theorem Outcome.fault_cases {i : Instr} {s t : State} {kind : FaultKind} (h : Outcome i s t) (hfault : t.status = .fault kind) :
    t = s.stopAt (s.pc + BitVec.ofNat 16 ((encode i).length - 1)) (.fault kind) ∨
    ∃ op m n, i = .stack op m ∧ m.keep = false ∧ n ≤ (s.stack (activeStack m)).sp.toNat ∧
      ((op = .jsr ∨ op = .sth) ∧ kind = .overflow ∧ n = m.width.bytes ∨ op = .deo ∧ kind = .underflow ∧ n = 1) ∧
      t = (s.afterCheck m n 0).stopAt s.pc (.fault kind) := by
  cases h with
  | faulted =>
    cases hfault
    exact .inl rfl
  | faultedAtSecondCheck op m kind n hi hk hn hcases =>
    cases hfault
    exact .inr ⟨op, m, n, hi, hk, hn, hcases, by rw [State.afterCheck_no_keep s hk]⟩
  | completed _ hstatus => cases hstatus.symm.trans hfault
  | halted | stored | input | output => cases hfault

/-- A check without keep lowers its pointer by what it takes (R32). -/
theorem poppedSp_active {m : Mode} (hk : m.keep = false) (s : State) (n : Nat) :
    poppedSp m s n (activeStack m) = (s.stack (activeStack m)).sp - BitVec.ofNat 8 n := if_pos ⟨rfl, hk⟩

/-! ### The metadata port -/

/-- Every port of the System device but 4 and 5 shows its storage (R115). -/
theorem systemByte_storage {q : BitVec 4} (h4 : q ≠ 4) (h5 : q ≠ 5) (s : State) (r : SystemPorts) : systemByte s r q = r.read q := by
  rw [systemByte, if_neg h4, if_neg h5]

/-- A short written to the metadata port is stored in ports 6 and 7, high byte first (R91, R117). -/
theorem State.devWrite_metadata {s : State} {d : BitVec 4} {r : SystemPorts} (h : s.slot d = some (.system r)) (v : Short) :
    ∃ r', (s.devWrite d 6 .short v).slot d = some (.system r') ∧ r'.read 6 = hiByte v ∧ r'.read 7 = loByte v := by
  obtain ⟨r1, hslot1, hread1, -, -⟩ := State.writePort_system_effect h 6 (hiByte v)
  obtain ⟨r2, hslot2, hread2, -, -⟩ := State.writePort_system_effect hslot1 7 (loByte v)
  refine ⟨r2, ?_, ?_, ?_⟩
  · rw [State.devWrite_system h]
    exact hslot2
  · rw [hread2 6 (by decide) (by decide), if_neg (by decide), hread1 6 (by decide) (by decide), if_pos rfl]
  · rw [hread2 7 (by decide) (by decide), if_pos rfl]

end Sys2Proof.Machine

/-! SUPPORT. The statements of 60_exceptions.md, settled from the laws above. -/

namespace Sys2Proof.Machine

/-- Settles O8: a step is an outcome of the decoded instruction, only BRK's is a halt, and only the byte 0x00 is decoded as BRK. -/
theorem onlyBrkHalts : Obligations.OnlyBrkHalts := by
  intro s t h
  obtain ⟨i, rest, hdecode, ho⟩ := step_outcome_of_eq h
  exact ho.halted_iff.trans (decode_brk_iff hdecode)

/-- Settles O9: a first check raises in the state as it is, and a second one in the state the first left. -/
theorem faultLeavesStateOfPseudocode : Obligations.FaultLeavesStateOfPseudocode := by
  intro i s t kind h hfault
  rcases (exec_outcome_of_eq h).fault_cases hfault with rfl | ⟨op, m, n, rfl, hk, hn, hcases, rfl⟩
  · exact ⟨rfl, rfl, rfl, rfl, rfl, rfl, rfl, .inl ⟨rfl, rfl⟩⟩
  · have hsp := (State.afterCheck_popped_sp hn (activeStack m)).trans (poppedSp_active hk s n)
    have hother := congrArg Stack.sp (State.afterCheck_other s m n 0)
    refine ⟨?_, State.afterCheck_mem .., State.afterCheck_dev .., State.afterCheck_bus .., State.afterCheck_sub8Adds ..,
      State.afterCheck_dat s m n 0 .ws, State.afterCheck_dat s m n 0 .rs, .inr ⟨op, m, rfl, hk, hother, ?_⟩⟩
    · rw [length_encode_stack]
      exact (BitVec.add_zero s.pc).symm
    · rcases hcases with ⟨hop, hkind, rfl⟩ | ⟨hop, hkind, rfl⟩
      · exact .inl ⟨hop, hkind, hsp⟩
      · exact .inr ⟨hop, hkind, hsp⟩

/-- Settles O53: after the write ports 6 and 7 store the two bytes, and a read shows what they store. -/
theorem metadataRoundTrip : Obligations.MetadataRoundTrip := by
  intro s d r v hslot
  obtain ⟨r', hslot', h6, h7⟩ := State.devWrite_metadata hslot v
  have hbyte6 := (systemByte_storage (q := 6) (by decide) (by decide) (s.devWrite d 6 .short v) r').trans h6
  have hbyte7 := (systemByte_storage (q := 7) (by decide) (by decide) (s.devWrite d 6 .short v) r').trans h7
  simp only [State.devRead_system hslot', portValue]
  exact ⟨(congrArg₂ shortOf hbyte6 hbyte7).trans (shortOf_hiByte_loByte v), congrArg zext16 hbyte6, congrArg zext16 hbyte7⟩

end Sys2Proof.Machine
